-- ==== Sys2Proof/Word.lean ====
section
/-! DEFINITION. The instruction word and the sub-descriptor word (spec/30_encoding.md R60, spec/10_state.md R14). -/

namespace Sys2Proof

/-- One instruction, the TT_OP word `W` of R60: every instruction is one 32-bit word. -/
abbrev Word := BitVec 32

/-- One word of per-thread configuration, 16 bits at one ADDR32 index (R14). -/
abbrev CfgWord := BitVec 16

end Sys2Proof
end

