-- ==== Sys2Proof/Config.lean ====
section
/-! DEFINITION. What the hardware fixes (spec/00_scope.md R5), and the free values: opaque constants of which nothing can be
proved, one for each value that the spec leaves open (spec/93_implementation_defined.md). -/

namespace Sys2Proof

/-- Columns of each register file, `COLS` of R5. -/
def Config.cols : Nat := 16

/-- Rows of one bank of SrcA or SrcB, `SRC_ROWS` of R5. -/
def Config.srcRows : Nat := 64

/-- Banks of SrcA and of SrcB, `SRC_BANKS` of R5. -/
def Config.srcBanks : Nat := 2

/-- Rows of Dst in 16-bit mode, `DST_ROWS` of R5. -/
def Config.dstRows : Nat := 1024

/-- SFPU lanes, `LANES` of R5. -/
def Config.lanes : Nat := 32

/-- Width of one SrcB element: the source does not state it (R26, N21). Log 35. -/
opaque Config.srcBElemWidth : Nat

/-- FREE VALUE. The Dst element that the instruction drawing at `index` leaves in Dst element number `cell`: what MVMUL, ELWADD
and SFPSTORE compute is not in the source (R4, N12). Log 23. -/
opaque Config.freeDst (index cell : Nat) : BitVec 16

/-- FREE VALUE. `ADDR_MOD_SET_Base` of thread number `thread` after its SETC16 to an ADDR32 that R14 does not list, drawn at the
thread's own `index`: the source does not say at which ADDR32 the field stands (R22, N2). Log 26. -/
opaque Config.freeSetBase (thread index : Nat) : Bool

/-- FREE VALUE. `DEST_TARGET_REG_CFG_MATH_Offset` of thread number `thread` after its SETC16 to an ADDR32 that R14 does not list,
drawn at the thread's own `index` (R22, N2). Log 26. -/
opaque Config.freeMathOffset (thread index : Nat) : Nat

/-- FREE VALUE. The datum count of R168 when Channel[1].X (`upper`) lies below Channel[0].X (`lower`): any value (U7). Log 28. -/
opaque Config.freeDatumCount (lower upper : BitVec 18) : Nat

/-- FREE VALUE. The packer L1 output address of R175, a function of `PCK0_ADDR_BASE_REG_1_Base` and of Channel[1].Y, Z, W:
the source names no stride register and gives no formula (N8, U14). Log 28. -/
opaque Config.freePackerL1Address (base : Nat) (y : BitVec 13) (z w : BitVec 8) : Nat

end Sys2Proof
end

