-- ==== Sys2Proof/Syntax.lean ====
section
/-! DEFINITION. The instructions: one constructor for each row of spec/opcode_table.json, its operands in the order of the
macro `TT_<NAME>` (spec/30_encoding.md R63 to R73, R78), each at the width of its field. SETC16 stands here in abstract form
alone: its word is refused (R78, U15). -/

namespace Sys2Proof

/-- The XYZW selector of SETADC: which counter of a channel (R162). -/
inductive Dim where
  | x
  | y
  | z
  | w
  deriving DecidableEq, Repr

/-- The Channel operand of SETADC: index into `Channel[2]` (R24, R79). -/
inductive Channel where
  | ch0
  | ch1
  deriving DecidableEq, Repr

/-- An instruction of the coprocessor. -/
inductive Instr where
  /-- SETRWC (R63, R110). -/
  | setrwc (clearAbVld : BitVec 2) (rwcCr rwcD rwcB rwcA : BitVec 4) (bitMask : BitVec 6)
  /-- INCRWC (R64, R120); bits 0, 1, 2 of `rwcCr` are the flags, bits 3 to 5 are padding. -/
  | incrwc (rwcCr : BitVec 6) (rwcD rwcB rwcA : BitVec 4)
  /-- MVMUL (R65, R91); `instrMod19` is the second operand, which the source leaves unnamed; it is 0 in every word
  that is not refused (R75, D12). Log 8. -/
  | mvmul (clearDvalid : BitVec 2) (instrMod19 : BitVec 3) (addrMode : BitVec 5) (dst : BitVec 14)
  /-- ELWADD (R72, R93). PRESUMED: the operands beside `broadcast`, `addrMode` and `dst`. Log 9. -/
  | elwadd (clearDvalid : BitVec 2) (destAccumEn : BitVec 1) (broadcast : Bool) (broadcastCol : BitVec 1)
      (addrMode : BitVec 5) (dst : BitVec 14)
  /-- SFPLOAD (R72, R95). PRESUMED: the operands beside `addrMode` and `imm10`. Log 10. -/
  | sfpload (lregInd instrMod0 : BitVec 4) (addrMode : BitVec 3) (imm10 : BitVec 10)
  /-- SFPSTORE (R72, R96). PRESUMED: the operands beside `addrMode` and `imm10`. Log 10. -/
  | sfpstore (lregInd instrMod0 : BitVec 4) (addrMode : BitVec 3) (imm10 : BitVec 10)
  /-- SETADC (R68, R162); bits 17 and 16 of `newValue` are the ThreadOverride. -/
  | setadc (cntSetMask : BitVec 3) (channel : Channel) (xyzw : Dim) (newValue : BitVec 18)
  /-- SETADCXY (R66, R163). -/
  | setadcxy (cntSetMask y1Val x1Val y0Val x0Val : BitVec 3) (bitMask : BitVec 4)
  /-- SETADCZW (R67, R164). -/
  | setadczw (cntSetMask w1Val z1Val w0Val z0Val : BitVec 3) (bitMask : BitVec 4)
  /-- SETADCXX (R69, R165). -/
  | setadcxx (cntSetMask : BitVec 3) (x1Val x0Val : BitVec 10)
  /-- INCADCXY (R70, R166). -/
  | incadcxy (cntSetMask y1Inc x1Inc y0Inc x0Inc : BitVec 3)
  /-- INCADCZW (R71, R167). -/
  | incadczw (cntSetMask w1Inc z1Inc w0Inc z0Inc : BitVec 3)
  /-- SETC16 by its effect, the abstract step `Cfg16(t, addr32) <- value` (R209, U15); no word is one (R78). PRESUMED: that the
  index has 8 bits. Log 11, log 36. -/
  | setc16 (addr32 : BitVec 8) (value : CfgWord)
  /-- REPLAY (R78): named only, `params` is `W[23:0]`. -/
  | replay (params : BitVec 24)
  /-- MOP (R78): named only. -/
  | mop (params : BitVec 24)
  /-- UNPACR (R78): named only. -/
  | unpacr (params : BitVec 24)
  /-- PACR (R78): named only. -/
  | pacr (params : BitVec 24)
  deriving DecidableEq, Repr

end Sys2Proof
end

