-- ==== Sys2Proof/WellFormed.lean ====
section
/-! DEFINITION. Which instructions have a word of the spec: the operand values that spec/30_encoding.md R75 leaves without
meaning are shut out, and so is SETC16, whose word R78 refuses. -/

namespace Sys2Proof

/-- `BitMask[5:4]` of SETRWC are assigned by no table (R75). -/
def bitMaskAssigned (bitMask : BitVec 6) : Bool := bitMask.extractLsb' 4 2 == 0#2

/-- `rwc_cr[5:3]` of INCRWC are padding (R75). -/
def crFlagsAssigned (rwcCr : BitVec 6) : Bool := rwcCr.extractLsb' 3 3 == 0#3

/-- There are 8 descriptors; an addr_mode of 8 or above names none (R75). -/
def addrModeAssigned (addrMode : BitVec 5) : Bool := addrMode.extractLsb' 3 2 == 0#2

/-- MVMUL's second operand lies outside addr_mode, and is neither DstField nor clear_dvalid (R75, D12). -/
def secondOperandAssigned (instrMod19 : BitVec 3) : Bool := instrMod19 == 0#3

/-- The instruction has a word to which the spec gives a meaning. -/
def Instr.wf : Instr → Bool
  | .setrwc _ _ _ _ _ bitMask => bitMaskAssigned bitMask
  | .incrwc rwcCr _ _ _ => crFlagsAssigned rwcCr
  | .mvmul _ instrMod19 addrMode _ => secondOperandAssigned instrMod19 && addrModeAssigned addrMode
  | .elwadd _ _ _ _ addrMode _ => addrModeAssigned addrMode
  | .sfpload _ _ _ _ => true
  | .sfpstore _ _ _ _ => true
  | .setadc _ _ _ _ => true
  | .setadcxy _ _ _ _ _ _ => true
  | .setadczw _ _ _ _ _ _ => true
  | .setadcxx _ _ _ => true
  | .incadcxy _ _ _ _ _ => true
  | .incadczw _ _ _ _ _ => true
  | .setc16 _ _ => false
  | .replay _ => true
  | .mop _ => true
  | .unpacr _ => true
  | .pacr _ => true

end Sys2Proof
end

