-- ==== Sys2Proof/Decode.lean ====
section
/-! DEFINITION. The decoder on TT_OP words, total and rejecting by name, the encoder, and the stream form of a word
(spec/30_encoding.md R60 to R75, R78; logs 1, 6 to 12). -/

namespace Sys2Proof

/-- Why a word has no instruction (R75, R78, D12). -/
inductive DecodeError where
  /-- The opcode byte is in neither R74 nor R78. -/
  | unknownOpcode
  /-- SETRWC with a bit of `BitMask[5:4]` set. -/
  | setrwcBitMask
  /-- INCRWC with a bit of `rwc_cr[5:3]` set. -/
  | incrwcPadding
  /-- INCRWC with a bit of `W[5:0]` set. -/
  | incrwcLowBits
  /-- MVMUL with a non-zero second operand, `W[21:19]`. -/
  | mvmulSecondOperand
  /-- MVMUL or ELWADD with an addr_mode of 8 or above. -/
  | addrModeTooLarge
  /-- SFPLOAD or SFPSTORE with a bit of `W[12:10]` set. -/
  | sfpUnassignedBits
  /-- An ADC instruction with a bit set that its format gives to no operand. -/
  | adcUnassignedBits
  /-- A SETC16 word: named without encoding, recognised only to be refused (R78, U15). Its effect is an abstract step. Log 11. -/
  | setc16Word
  deriving DecidableEq, Repr

/-- The opcodes of R74 and R78. -/
inductive Opcode where
  | setrwc | incrwc | mvmul | elwadd | sfpload | sfpstore
  | setadc | setadcxy | setadczw | setadcxx | incadcxy | incadczw
  | setc16 | replay | mop | unpacr | pacr
  deriving DecidableEq, Repr

/-- The opcode byte `W[31:24]` (R74, R78). PRESUMED: the bytes that the spec takes from general knowledge (G3). Log 6. -/
def Opcode.code : Opcode → BitVec 8
  | .setrwc => 0x37#8
  | .incrwc => 0x38#8
  | .mvmul => 0x26#8
  | .elwadd => 0x28#8
  | .sfpload => 0x70#8
  | .sfpstore => 0x72#8
  | .setadc => 0x50#8
  | .setadcxy => 0x51#8
  | .setadczw => 0x54#8
  | .setadcxx => 0x5e#8
  | .incadcxy => 0x52#8
  | .incadczw => 0x55#8
  | .setc16 => 0xb2#8
  | .replay => 0x04#8
  | .mop => 0x01#8
  | .unpacr => 0x42#8
  | .pacr => 0x41#8

/-- Every opcode once. -/
def Opcode.all : List Opcode :=
  [.setrwc, .incrwc, .mvmul, .elwadd, .sfpload, .sfpstore, .setadc, .setadcxy, .setadczw, .setadcxx, .incadcxy, .incadczw,
    .setc16, .replay, .mop, .unpacr, .pacr]

/-- The opcode whose byte is `b`. -/
def opcodeOf (b : BitVec 8) : Option Opcode := Opcode.all.find? (fun o => o.code == b)

/-- The opcode of an instruction. -/
def Instr.opcode : Instr → Opcode
  | .setrwc _ _ _ _ _ _ => .setrwc
  | .incrwc _ _ _ _ => .incrwc
  | .mvmul _ _ _ _ => .mvmul
  | .elwadd _ _ _ _ _ _ => .elwadd
  | .sfpload _ _ _ _ => .sfpload
  | .sfpstore _ _ _ _ => .sfpstore
  | .setadc _ _ _ _ => .setadc
  | .setadcxy _ _ _ _ _ _ => .setadcxy
  | .setadczw _ _ _ _ _ _ => .setadczw
  | .setadcxx _ _ _ => .setadcxx
  | .incadcxy _ _ _ _ _ => .incadcxy
  | .incadczw _ _ _ _ _ => .incadczw
  | .setc16 _ _ => .setc16
  | .replay _ => .replay
  | .mop _ => .mop
  | .unpacr _ => .unpacr
  | .pacr _ => .pacr

/-- The numbering of SETADC's XYZW selector (R79, G7). PRESUMED. Log 7. -/
def Dim.code : Dim → BitVec 2
  | .x => 0#2
  | .y => 1#2
  | .z => 2#2
  | .w => 3#2

/-- The counter that an XYZW selector names. -/
def Dim.ofCode (b : BitVec 2) : Dim :=
  if b = 0#2 then .x else if b = 1#2 then .y else if b = 2#2 then .z else .w

/-- SETADC's Channel bit indexes `Channel[2]` (R79). -/
def Channel.code : Channel → BitVec 1
  | .ch0 => 0#1
  | .ch1 => 1#1

/-- The channel that a Channel bit names. -/
def Channel.ofCode (b : BitVec 1) : Channel := if b = 0#1 then .ch0 else .ch1

/-- `w[lo+len-1:lo]`. -/
def field (w : Word) (lo len : Nat) : BitVec len := w.extractLsb' lo len

/-- Refuse with `e` unless the field that no table assigns is zero (D12). -/
def requireZero {len : Nat} (b : BitVec len) (e : DecodeError) (i : Instr) : Except DecodeError Instr :=
  if b = 0#len then .ok i else .error e

/-- The instruction of a word whose opcode is `op`: the formats of R63 to R72 and R78. -/
def operandsOf (op : Opcode) (w : Word) : Except DecodeError Instr :=
  match op with
  | .setrwc =>
    requireZero (field w 4 2) .setrwcBitMask
      (.setrwc (field w 22 2) (field w 18 4) (field w 14 4) (field w 10 4) (field w 6 4) (field w 0 6))
  | .incrwc =>
    if field w 21 3 = 0#3 then
      requireZero (field w 0 6) .incrwcLowBits (.incrwc (field w 18 6) (field w 14 4) (field w 10 4) (field w 6 4))
    else .error .incrwcPadding
  | .mvmul =>
    if field w 17 2 = 0#2 then
      requireZero (field w 19 3) .mvmulSecondOperand (.mvmul (field w 22 2) (field w 19 3) (field w 14 5) (field w 0 14))
    else .error .addrModeTooLarge
  | .elwadd =>
    requireZero (field w 17 2) .addrModeTooLarge
      (.elwadd (field w 22 2) (field w 21 1) (field w 20 1 == 1#1) (field w 19 1) (field w 14 5) (field w 0 14))
  | .sfpload =>
    requireZero (field w 10 3) .sfpUnassignedBits (.sfpload (field w 20 4) (field w 16 4) (field w 13 3) (field w 0 10))
  | .sfpstore =>
    requireZero (field w 10 3) .sfpUnassignedBits (.sfpstore (field w 20 4) (field w 16 4) (field w 13 3) (field w 0 10))
  | .setadc => .ok (.setadc (field w 21 3) (Channel.ofCode (field w 20 1)) (Dim.ofCode (field w 18 2)) (field w 0 18))
  | .setadcxy =>
    if field w 18 3 = 0#3 then
      requireZero (field w 4 2) .adcUnassignedBits
        (.setadcxy (field w 21 3) (field w 15 3) (field w 12 3) (field w 9 3) (field w 6 3) (field w 0 4))
    else .error .adcUnassignedBits
  | .setadczw =>
    if field w 18 3 = 0#3 then
      requireZero (field w 4 2) .adcUnassignedBits
        (.setadczw (field w 21 3) (field w 15 3) (field w 12 3) (field w 9 3) (field w 6 3) (field w 0 4))
    else .error .adcUnassignedBits
  | .setadcxx => requireZero (field w 20 1) .adcUnassignedBits (.setadcxx (field w 21 3) (field w 10 10) (field w 0 10))
  | .incadcxy =>
    if field w 18 3 = 0#3 then
      requireZero (field w 0 6) .adcUnassignedBits
        (.incadcxy (field w 21 3) (field w 15 3) (field w 12 3) (field w 9 3) (field w 6 3))
    else .error .adcUnassignedBits
  | .incadczw =>
    if field w 18 3 = 0#3 then
      requireZero (field w 0 6) .adcUnassignedBits
        (.incadczw (field w 21 3) (field w 15 3) (field w 12 3) (field w 9 3) (field w 6 3))
    else .error .adcUnassignedBits
  | .setc16 => .error .setc16Word
  | .replay => .ok (.replay (field w 0 24))
  | .mop => .ok (.mop (field w 0 24))
  | .unpacr => .ok (.unpacr (field w 0 24))
  | .pacr => .ok (.pacr (field w 0 24))

/-- The instruction of a TT_OP word, or why it has none. -/
def decode (w : Word) : Except DecodeError Instr :=
  match opcodeOf (field w 24 8) with
  | some op => operandsOf op w
  | none => .error .unknownOpcode

/-- The operand bits `W[23:0]` of an instruction, from the same formats. SETC16 is not well-formed and has no format: its operands
stand in no bits (R78). -/
def Instr.params : Instr → BitVec 24
  | .setrwc clearAbVld rwcCr rwcD rwcB rwcA bitMask => clearAbVld ++ rwcCr ++ rwcD ++ rwcB ++ rwcA ++ bitMask
  | .incrwc rwcCr rwcD rwcB rwcA => rwcCr ++ rwcD ++ rwcB ++ rwcA ++ 0#6
  | .mvmul clearDvalid instrMod19 addrMode dst => clearDvalid ++ instrMod19 ++ addrMode ++ dst
  | .elwadd clearDvalid destAccumEn broadcast broadcastCol addrMode dst =>
    clearDvalid ++ destAccumEn ++ BitVec.ofBool broadcast ++ broadcastCol ++ addrMode ++ dst
  | .sfpload lregInd instrMod0 addrMode imm10 => lregInd ++ instrMod0 ++ addrMode ++ 0#3 ++ imm10
  | .sfpstore lregInd instrMod0 addrMode imm10 => lregInd ++ instrMod0 ++ addrMode ++ 0#3 ++ imm10
  | .setadc cntSetMask channel xyzw newValue => cntSetMask ++ channel.code ++ xyzw.code ++ newValue
  | .setadcxy cntSetMask y1 x1 y0 x0 bitMask => cntSetMask ++ 0#3 ++ y1 ++ x1 ++ y0 ++ x0 ++ 0#2 ++ bitMask
  | .setadczw cntSetMask w1 z1 w0 z0 bitMask => cntSetMask ++ 0#3 ++ w1 ++ z1 ++ w0 ++ z0 ++ 0#2 ++ bitMask
  | .setadcxx cntSetMask x1 x0 => cntSetMask ++ 0#1 ++ x1 ++ x0
  | .incadcxy cntSetMask y1 x1 y0 x0 => cntSetMask ++ 0#3 ++ y1 ++ x1 ++ y0 ++ x0 ++ 0#6
  | .incadczw cntSetMask w1 z1 w0 z0 => cntSetMask ++ 0#3 ++ w1 ++ z1 ++ w0 ++ z0 ++ 0#6
  | .setc16 _ _ => 0#24
  | .replay params => params
  | .mop params => params
  | .unpacr params => params
  | .pacr params => params

/-- The TT_OP word of an instruction: `TT_OP(opcode, params)` (R60, R62). -/
def encode (i : Instr) : Word := i.opcode.code ++ i.params

/-- The stream word of a TT_OP word, `S = rotl32(W, 2)` (R61). PRESUMED: that it is a rotation (G2). Log 6. -/
def toStream (w : Word) : Word := w.rotateLeft 2

/-- The TT_OP word of a stream word, `W = rotr32(S, 2)` (R61). -/
def ofStream (s : Word) : Word := s.rotateRight 2

/-- The instruction of a listing's stream word (R62, D1). -/
def decodeStream (s : Word) : Except DecodeError Instr := decode (ofStream s)

/-- The instruction that the decoder reads from the word whose low `nbits` bits are those of `w` and whose other bits are 0,
bits numbered as in spec/opcode_table.json, which gives its matches over `W`. -/
def decodeTableWord (nbits w : Nat) : Option Instr := (decode (BitVec.ofNat 32 (w % 2 ^ nbits))).toOption

end Sys2Proof
end

