-- ==== Sys2Proof/Machine/State.lean ====
section
/-! DEFINITION. The state of the machine, all of it plain data, and its value after reset (spec/10_state.md; INVENTORY.md
lists each field with its rule). -/

namespace Sys2Proof.Machine

/-- `CurrentThread`, the index of a Tensix thread (R5, R8). -/
inductive ThreadId where
  | t0
  | t1
  | t2
  deriving DecidableEq, Repr

/-- One value for each of the three threads (R5: `NTHREADS`). -/
structure PerThread (α : Type) where
  t0 : α
  t1 : α
  t2 : α
  deriving DecidableEq, Repr

/-- The Read-Write Counters of one thread (R10). -/
structure Rwc where
  dst : BitVec 10
  dstCr : BitVec 10
  srcA : BitVec 6
  srcACr : BitVec 6
  srcB : BitVec 6
  srcBCr : BitVec 6
  fidelityPhase : BitVec 2
  extraAddrModBit : BitVec 1
  deriving DecidableEq, Repr

/-- One channel of an ADC unit (R24). -/
structure AdcChannel where
  x : BitVec 18
  xCr : BitVec 18
  y : BitVec 13
  yCr : BitVec 13
  z : BitVec 8
  zCr : BitVec 8
  w : BitVec 8
  wCr : BitVec 8
  deriving DecidableEq, Repr

/-- One ADC unit, `Channel[2]` (R24). -/
structure AdcUnit where
  channel0 : AdcChannel
  channel1 : AdcChannel
  deriving DecidableEq, Repr

/-- The Address Counters of one thread (R24, R25). -/
structure Adc where
  unpacker0 : AdcUnit
  unpacker1 : AdcUnit
  packers : AdcUnit
  deriving DecidableEq, Repr

/-- Cells of `w` bits by address, sparse: an address that is not listed reads as `Cells.unlisted`. -/
abbrev Cells (w : Nat) := List (Nat × BitVec w)

/-- What an address that is not listed reads as. DESIGN CHOICE: zero; the spec gives no contents (R30). Log 3. -/
def Cells.unlisted {w : Nat} : BitVec w := 0#w

/-- Every listed address is at least `lo`, the addresses rise strictly, and no listed value is the unlisted one. -/
def Cells.wfFrom {w : Nat} : Nat → Cells w → Bool
  | _, [] => true
  | lo, (a, v) :: rest => decide (lo ≤ a) && decide (v ≠ Cells.unlisted) && Cells.wfFrom (a + 1) rest

/-- The canonical form: equal contents are equal lists. -/
def Cells.wf {w : Nat} (c : Cells w) : Bool := Cells.wfFrom 0 c

/-- Every listed address lies below `n`. -/
def Cells.within {w : Nat} (n : Nat) (c : Cells w) : Bool := c.all (fun cell => decide (cell.1 < n))

/-- L1 by byte address (R40, R41). -/
abbrev Memory := List Host.Cell

/-- L1 is in canonical form. -/
def Memory.wf (m : Memory) : Bool := Cells.wf (w := 8) m

/-- The configuration of one thread (R14, R22). -/
structure ThreadConfig where
  /-- `Cfg16(t, a)`: the sub-descriptor words, and the word at every other ADDR32, by ADDR32. -/
  words : Cells 16
  /-- `ADDR_MOD_SET_Base` as a truth value: non-zero (R22, P2). -/
  addrModSetBase : Bool
  /-- `DEST_TARGET_REG_CFG_MATH_Offset`, used modulo 1024 (R22, P1). -/
  mathOffset : Nat
  deriving DecidableEq, Repr

/-- Configuration not indexed by thread (R23), with the other inputs of the packer formulas (R174). Log 25. -/
structure ConfigState where
  /-- `DEST_REGW_BASE_Base`. -/
  destRegwBase : Nat
  /-- `PCK0_ADDR_BASE_REG_0_Base`. -/
  pck0BaseReg0 : Nat
  /-- `PCK0_ADDR_BASE_REG_1_Base`. -/
  pck0BaseReg1 : Nat
  /-- `PCK0_ADDR_CTRL_XY_REG_0_Xstride`. -/
  pck0Xstride : Nat
  /-- `PCK0_ADDR_CTRL_XY_REG_0_Ystride`. -/
  pck0Ystride : Nat
  /-- `PCK0_ADDR_CTRL_ZW_REG_0_Zstride`. -/
  pck0Zstride : Nat
  /-- `PCK0_ADDR_CTRL_ZW_REG_0_Wstride`. -/
  pck0Wstride : Nat
  /-- `DEST_TARGET_REG_CFG_PACK_SEC[i].Offset` for the packers `i` = 0..3. -/
  packSecOffset : Vector Nat 4
  /-- `BytesPerDatum`, not zero (P3). -/
  bytesPerDatum : Nat
  /-- `ADC_X_Mask`. -/
  adcXMask : Nat
  deriving DecidableEq, Repr

/-- An entry of a thread's sequence. -/
inductive SequenceEntry where
  /-- An instruction word (R21, D3). -/
  | word (w : Word)
  /-- The abstract step `Cfg16(t, addr32) <- value`, which stands where the thread issues a SETC16 (R209, U15). Log 11. -/
  | cfg16 (addr32 : BitVec 8) (value : CfgWord)
  deriving DecidableEq, Repr

/-- The instructions of one thread and the position of the next one to issue (R21, D3). -/
structure Sequence where
  entries : List SequenceEntry
  position : Nat
  deriving DecidableEq, Repr

/-- The rows that an instruction addresses in a register file. -/
inductive Rows where
  /-- `count` rows from row `first` on. -/
  | block (first count : Nat)
  /-- Row `first`; whether further rows are read is not in the source (broadcast ELWADD, U11). -/
  | startingAt (first : Nat)
  /-- The block passes the last row of the file: the access has no defined rows (R99, D19). -/
  | noDefinedRows
  deriving DecidableEq, Repr

/-- One element of Dst by row and column. -/
structure DstCell where
  row : BitVec 10
  column : BitVec 4
  deriving DecidableEq, Repr

/-- An effect outside the counters that a host can observe: the addresses that an instruction formed and the effects that the
source names without defining (R8 `Effect`, R19, R214). Log 32. -/
inductive Effect where
  /-- `release_srca_bank()` (R115). -/
  | releaseSrcaBank
  /-- `flip_srca_bank()` (R115). -/
  | flipSrcaBank
  /-- `release_srcb_bank()` (R115). -/
  | releaseSrcbBank
  /-- `flip_srcb_bank()` (R115). -/
  | flipSrcbBank
  /-- A non-zero `clear_dvalid` operand of a math instruction (R19, R228). -/
  | clearDvalid (operand : BitVec 2)
  /-- The rows that MVMUL or ELWADD reads in SrcA and SrcB and writes in Dst (R91, R93). -/
  | matrixRows (srcA srcB dst : Rows)
  /-- The Dst cells that SFPLOAD reads, lane 0 first, and the elements that stand there (R95). -/
  | laneLoads (cells : List DstCell) (elements : List (BitVec 16))
  /-- The Dst cells that SFPSTORE writes, lane 0 first (R96). -/
  | laneStores (cells : List DstCell)
  deriving DecidableEq, Repr

/-- An effect and the thread whose instruction had it. -/
structure Event where
  thread : ThreadId
  effect : Effect
  deriving DecidableEq, Repr

/-- The state of the coprocessor. -/
structure State where
  /-- `RWCs[3]` (R10). -/
  rwc : PerThread Rwc
  /-- `ADCs[3]` (R24). -/
  adc : PerThread Adc
  /-- `ThreadConfig[3]` (R14, R22). -/
  threadConfig : PerThread ThreadConfig
  /-- `ConfigState` and the packer inputs (R23, R174). -/
  config : ConfigState
  /-- The `addr_bit1_exchange` condition of SFPLOAD and SFPSTORE (R6, R98). Log 24. -/
  addrBit1Exchange : Bool
  /-- SrcA elements by `(bank * 64 + row) * 16 + column` (R26). -/
  srcA : Cells 19
  /-- SrcB elements by `(bank * 64 + row) * 16 + column` (R26). -/
  srcB : Cells Config.srcBElemWidth
  /-- Dst elements by `row * 16 + column` (R26). -/
  dst : Cells 16
  /-- L1 (R40, R41). -/
  l1 : Memory
  /-- The instructions of the threads (R21). -/
  sequences : PerThread Sequence
  /-- `CurrentThread`: the thread whose instruction is executed (R8, R207). -/
  currentThread : ThreadId
  /-- The threads in the order in which their next instructions issue: the interleaving (R48). The model's own field. Log 2. -/
  schedule : List ThreadId
  /-- What a host observes beside the records: the effects so far, oldest first (R214, D25). -/
  effects : List Event
  /-- Where the next free values of Dst are drawn. The model's own field. Log 34. -/
  freeIndex : Nat
  /-- Where the next free configuration values of each thread are drawn: a draw of one thread moves no other thread's, so that the
  interleaving cannot show in them (R48). The model's own field. Log 34. -/
  configIndex : PerThread Nat
  deriving DecidableEq, Repr

/-- Why the machine stops. The hardware has no exception (R200); both are the end of a finite run (R214, D25). Log 5. -/
inductive Fault where
  /-- Raised by `step` when the schedule names no further thread: the run has ended. SAFE: nothing is claimed about what follows. -/
  | runEnded
  /-- Raised by `step` when the scheduled thread has no further instruction. SAFE: no such interleaving exists. -/
  | sequenceEnded (thread : ThreadId)
  deriving DecidableEq, Repr

/-- Why an instruction or a word is given no meaning (R200, D6). -/
inductive Refusal where
  /-- Raised by `exec` for an instruction that has no meaning yet. SAFE. -/
  | notModelled (mnemonic : String)
  /-- Raised by `step` for a word that decodes to no instruction, a SETC16 word among them (R75, R78, D12). SAFE. -/
  | undecodable (error : DecodeError)
  /-- Raised by MVMUL, ELWADD, SFPLOAD and SFPSTORE with addr_mode 4..7 while the upper bank is selected (R131, D9). SAFE. -/
  | addrModeInUpperBank
  /-- Raised by MVMUL and ELWADD, as terms that no word decodes to, with an addr_mode of 8 or above (R75). SAFE. -/
  | addrModeNamesNoDescriptor
  /-- Raised by REPLAY: named without semantics (R78, U15). SAFE. -/
  | replayNotDescribed
  /-- Raised by MOP: named without semantics (R78, U15). SAFE. -/
  | mopNotDescribed
  /-- Raised by UNPACR: named without semantics (R78, U15). SAFE. -/
  | unpacrNotDescribed
  /-- Raised by PACR: named without semantics (R78, U15). SAFE. -/
  | pacrNotDescribed
  deriving DecidableEq, Repr

/-- The same value for each thread. -/
def PerThread.all {α : Type} (a : α) : PerThread α := { t0 := a, t1 := a, t2 := a }

/-- DESIGN CHOICE. R30 gives no reset value; every counter is zero. Log 3. -/
def Rwc.zero : Rwc :=
  { dst := 0, dstCr := 0, srcA := 0, srcACr := 0, srcB := 0, srcBCr := 0, fidelityPhase := 0, extraAddrModBit := 0 }

/-- DESIGN CHOICE. R30 gives no reset value; every counter is zero. Log 3. -/
def AdcChannel.zero : AdcChannel := { x := 0, xCr := 0, y := 0, yCr := 0, z := 0, zCr := 0, w := 0, wCr := 0 }

/-- DESIGN CHOICE. Log 3. -/
def AdcUnit.zero : AdcUnit := { channel0 := AdcChannel.zero, channel1 := AdcChannel.zero }

/-- DESIGN CHOICE. Log 3. -/
def Adc.zero : Adc := { unpacker0 := AdcUnit.zero, unpacker1 := AdcUnit.zero, packers := AdcUnit.zero }

/-- DESIGN CHOICE. R30 gives no reset value; no word is listed and the lower bank is selected. Log 3. -/
def ThreadConfig.zero : ThreadConfig := { words := [], addrModSetBase := false, mathOffset := 0 }

/-- DESIGN CHOICE. R23 gives no reset value; zero, and one byte a datum, since P3 rules zero out. Log 3, log 25. -/
def ConfigState.zero : ConfigState :=
  { destRegwBase := 0, pck0BaseReg0 := 0, pck0BaseReg1 := 0, pck0Xstride := 0, pck0Ystride := 0, pck0Zstride := 0,
    pck0Wstride := 0, packSecOffset := Vector.replicate 4 0, bytesPerDatum := 1, adcXMask := 0 }

/-- The machine right after reset: the spec states no value (R30, R220), so every value is the log's. No instruction is
loaded and no issue is scheduled. Log 2, log 3. -/
def State.reset : State :=
  { rwc := PerThread.all Rwc.zero
    adc := PerThread.all Adc.zero
    threadConfig := PerThread.all ThreadConfig.zero
    config := ConfigState.zero
    addrBit1Exchange := false
    srcA := []
    srcB := []
    dst := []
    l1 := []
    sequences := PerThread.all { entries := [], position := 0 }
    currentThread := .t0
    schedule := []
    effects := []
    freeIndex := 0
    configIndex := PerThread.all 0 }

end Sys2Proof.Machine
end

