-- ==== Sys2Proof/Machine/Flags.lean ====
section
/-! DEFINITION. The flag bits of operands and of sub-descriptor words. The hardware has no condition flags (spec/10_state.md
R28); what it has are the operand flags of spec/30_encoding.md R79 and the descriptor bits of R15 to R17. -/

namespace Sys2Proof.Machine

/-- `SET_A`, bit 0 of SETRWC's BitMask (R79). -/
def flagSetA (bitMask : BitVec 6) : Bool := bitMask.getLsbD 0

/-- `SET_B`, bit 1 of SETRWC's BitMask (R79). -/
def flagSetB (bitMask : BitVec 6) : Bool := bitMask.getLsbD 1

/-- `SET_F`, bit 3 of SETRWC's BitMask (R79, R114). -/
def flagSetF (bitMask : BitVec 6) : Bool := bitMask.getLsbD 3

/-- SETRWC's Dst step runs when `BitMask & 0xC` is not zero (R113, D11). Log 15. -/
def flagDstStep (bitMask : BitVec 6) : Bool := bitMask.getLsbD 2 || bitMask.getLsbD 3

/-- `CR_A`, bit 0 of an `rwc_cr` operand (R79, R121). -/
def flagCrA {n : Nat} (rwcCr : BitVec n) : Bool := rwcCr.getLsbD 0

/-- `CR_B`, bit 1 of an `rwc_cr` operand (R79, R122). -/
def flagCrB {n : Nat} (rwcCr : BitVec n) : Bool := rwcCr.getLsbD 1

/-- `CR_D`, bit 2 of an `rwc_cr` operand (R79, R123). -/
def flagCrD {n : Nat} (rwcCr : BitVec n) : Bool := rwcCr.getLsbD 2

/-- `C_TO_CR_MODE`, bit 3 of SETRWC's `rwc_cr` (R79, R113). -/
def flagCToCr (rwcCr : BitVec 4) : Bool := rwcCr.getLsbD 3

/-- AB word: SrcACR (R15). -/
def abSrcACr (ab : CfgWord) : Bool := ab.getLsbD 6

/-- AB word: SrcAClear (R15). -/
def abSrcAClear (ab : CfgWord) : Bool := ab.getLsbD 7

/-- AB word: SrcBCR (R15). -/
def abSrcBCr (ab : CfgWord) : Bool := ab.getLsbD 14

/-- AB word: SrcBClear (R15). -/
def abSrcBClear (ab : CfgWord) : Bool := ab.getLsbD 15

/-- DST word: DestCR (R16). -/
def dstDestCr (d : CfgWord) : Bool := d.getLsbD 10

/-- DST word: DestClear (R16). -/
def dstDestClear (d : CfgWord) : Bool := d.getLsbD 11

/-- DST word: DestCToCR (R16). -/
def dstDestCToCr (d : CfgWord) : Bool := d.getLsbD 12

/-- DST word: FidelityClear (R16). -/
def dstFidelityClear (d : CfgWord) : Bool := d.getLsbD 15

/-- BIAS word: BiasClear (R17). -/
def biasClear (b : CfgWord) : Bool := b.getLsbD 4

/-- BIAS word: the low two bits of BiasIncr are not zero (R17, R137). -/
def biasSteps (b : CfgWord) : Bool := b.getLsbD 0 || b.getLsbD 1

end Sys2Proof.Machine
end

