-- ==== Sys2Proof/Machine/Ops.lean ====
section
/-! DEFINITION. The named operations over the threads' records, the sparse files and the instruction supply. There is no
operation that takes an exception and none that returns from one: the hardware has neither (spec/60_exceptions.md R200 to R204). -/

namespace Sys2Proof.Machine

/-- The outcome of an instruction or of a step. -/
abbrev Result := Host.Outcome State Fault Refusal

/-- The number of a thread, 0..2 (R207). -/
def threadNumber (t : ThreadId) : Nat :=
  match t with
  | .t0 => 0
  | .t1 => 1
  | .t2 => 2

/-- The record of thread `t`. -/
def PerThread.get {α : Type} (p : PerThread α) (t : ThreadId) : α :=
  match t with
  | .t0 => p.t0
  | .t1 => p.t1
  | .t2 => p.t2

/-- Replace the record of thread `t` and no other. -/
def PerThread.set {α : Type} (p : PerThread α) (t : ThreadId) (a : α) : PerThread α :=
  match t with
  | .t0 => { p with t0 := a }
  | .t1 => { p with t1 := a }
  | .t2 => { p with t2 := a }

/-- The value at an address. -/
def Cells.read {w : Nat} : Cells w → Nat → BitVec w
  | [], _ => Cells.unlisted
  | (k, x) :: rest, a => if a = k then x else Cells.read rest a

/-- A list entry for `v` at `a`, or none where `v` is what an unlisted address reads as. -/
def Cells.entry {w : Nat} (a : Nat) (v : BitVec w) : Cells w := if v = Cells.unlisted then [] else [(a, v)]

/-- Write `v` at `a`, keeping the canonical form. -/
def Cells.write {w : Nat} : Cells w → Nat → BitVec w → Cells w
  | [], a, v => Cells.entry a v
  | (k, x) :: rest, a, v =>
    if a < k then Cells.entry a v ++ (k, x) :: rest
    else if a = k then Cells.entry a v ++ rest
    else (k, x) :: Cells.write rest a v

/-- Write `value a` at every address `a` of a list, first to last. -/
def Cells.writeAll {w : Nat} (value : Nat → BitVec w) : List Nat → Cells w → Cells w
  | [], c => c
  | a :: rest, c => Cells.writeAll value rest (Cells.write c a (value a))

/-- `MemRead(addr, 1)` of R8. No rule reads L1 (R41). -/
def Memory.read (m : Memory) (a : Nat) : BitVec 8 := Cells.read (w := 8) m a

/-- `MemWrite(addr, 1, v)` of R8. No rule writes L1 (R41). -/
def Memory.write (m : Memory) (a : Nat) (v : BitVec 8) : Memory := Cells.write (w := 8) m a v

/-- `RWCs[CurrentThread]` (R10). -/
def State.currentRwc (s : State) : Rwc := s.rwc.get s.currentThread

/-- Write `RWCs[CurrentThread]`; there is no cross-thread access (R10). -/
def State.setRwc (s : State) (r : Rwc) : State := { s with rwc := s.rwc.set s.currentThread r }

/-- `ThreadConfig[CurrentThread]` (R14). -/
def State.currentConfig (s : State) : ThreadConfig := s.threadConfig.get s.currentThread

/-- `Cfg16(t, a)` (R14). -/
def State.cfg16 (s : State) (t : ThreadId) (a : Nat) : CfgWord := (s.threadConfig.get t).words.read a

/-- Apply `f` to the ADC record of thread `t` (R24). -/
def State.updateAdc (s : State) (t : ThreadId) (f : Adc → Adc) : State := { s with adc := s.adc.set t (f (s.adc.get t)) }

/-- Record effects of the current thread's instruction, in order (R8, R214). -/
def State.emit (s : State) (effects : List Effect) : State :=
  { s with effects := s.effects ++ effects.map (fun e => { thread := s.currentThread, effect := e }) }

/-- Leave free values in the Dst elements at `cells`: what is stored there is not in the source (R4, N12). Log 23. -/
def State.writeFreeDst (s : State) (cells : List Nat) : State :=
  { s with dst := Cells.writeAll (Config.freeDst s.freeIndex) cells s.dst, freeIndex := s.freeIndex + 1 }

/-- Whether R14 gives ADDR32 index `a` to a sub-descriptor: AB, DST, PACK or BIAS. -/
def addr32Listed (a : Nat) : Bool :=
  (decide (12 ≤ a) && decide (a ≤ 19)) || (decide (28 ≤ a) && decide (a ≤ 35)) || (decide (37 ≤ a) && decide (a ≤ 40))
    || (decide (47 ≤ a) && decide (a ≤ 54))

/-- `ThreadConfig` after the word at ADDR32 `a` is written. At an index that R14 does not list `ADDR_MOD_SET_Base` and
`DEST_TARGET_REG_CFG_MATH_Offset`, whose ADDR32 the source does not give (R22), become free values. Log 26. -/
def ThreadConfig.writeWord (c : ThreadConfig) (t : ThreadId) (index : Nat) (a : Nat) (v : CfgWord) : ThreadConfig :=
  if addr32Listed a then { c with words := c.words.write a v }
  else
    { words := c.words.write a v
      addrModSetBase := Config.freeSetBase (threadNumber t) index
      mathOffset := Config.freeMathOffset (threadNumber t) index }

/-- `Cfg16(CurrentThread, a) <- v` (R209). Nothing but the thread's own configuration and draw index is read (R48). -/
def State.writeCfg16 (s : State) (a : Nat) (v : CfgWord) : State :=
  { s with
    threadConfig := s.threadConfig.set s.currentThread
      (s.currentConfig.writeWord s.currentThread (s.configIndex.get s.currentThread) a v)
    configIndex :=
      if addr32Listed a then s.configIndex
      else s.configIndex.set s.currentThread (s.configIndex.get s.currentThread + 1) }

/-- The instruction of an entry: what its word decodes to, or SETC16 in abstract form (R209, U15). -/
def SequenceEntry.instr : SequenceEntry → Except DecodeError Instr
  | .word w => decode w
  | .cfg16 addr32 value => .ok (.setc16 addr32 value)

/-- The entry that thread `t` issues next (R21). -/
def State.nextEntry (s : State) (t : ThreadId) : Option SequenceEntry :=
  (s.sequences.get t).entries[(s.sequences.get t).position]?

/-- The state in which thread `t` executes what it issues: `t` is the current thread, its position is one further (R21, D3),
and `rest` is the interleaving that follows (R48). -/
def State.issue (s : State) (t : ThreadId) (rest : List ThreadId) : State :=
  { s with
    currentThread := t
    schedule := rest
    sequences := s.sequences.set t { s.sequences.get t with position := (s.sequences.get t).position + 1 } }

/-- Put `e` where the sequence fetches next. -/
def Sequence.place (q : Sequence) (e : SequenceEntry) : Sequence :=
  { entries := q.entries.take q.position ++ e :: q.entries.drop (q.position + 1)
    position := (q.entries.take q.position).length }

/-- The thread that issues next: the schedule's first, or the current thread where the schedule names none. -/
def State.nextThread (s : State) : ThreadId := s.schedule.headD s.currentThread

/-- Put the word `w` where the next step fetches, and schedule that step where none is scheduled. -/
def State.placeWord (s : State) (w : Word) : State :=
  { s with
    schedule := s.nextThread :: s.schedule.tail
    sequences := s.sequences.set s.nextThread ((s.sequences.get s.nextThread).place (.word w)) }

end Sys2Proof.Machine
end

