-- ==== Sys2Proof/Machine/Operands.lean ====
section
/-! DEFINITION. Operand forms: the addends of the sub-descriptors, the selection of a descriptor, the rows and cells that the
consumers address, and the operands of the ADC instructions (spec/30_encoding.md R73, spec/40_rwc_consumers.md,
spec/42_addrmod.md R131, spec/43_adc.md R160, R161). -/

namespace Sys2Proof.Machine

/-- AB word: SrcAIncr (R15). -/
def abSrcAIncr (ab : CfgWord) : BitVec 6 := ab.extractLsb' 0 6

/-- AB word: SrcBIncr (R15). -/
def abSrcBIncr (ab : CfgWord) : BitVec 6 := ab.extractLsb' 8 6

/-- DST word: DestIncr (R16). -/
def dstDestIncr (d : CfgWord) : BitVec 10 := d.extractLsb' 0 10

/-- DST word: FidelityIncr (R16). -/
def dstFidelityIncr (d : CfgWord) : BitVec 2 := d.extractLsb' 13 2

/-- ADDR32 of the AB word of section `i` (R14). -/
def abAddr32 (i : Nat) : Nat := 12 + i

/-- ADDR32 of the DST word of section `i` (R14). -/
def dstAddr32 (i : Nat) : Nat := 28 + i

/-- ADDR32 of the PACK word of section `i`, stored and given no effect (R14, R18, R141). -/
def packAddr32 (i : Nat) : Nat := 37 + i

/-- ADDR32 of the BIAS word of section `i` (R14). -/
def biasAddr32 (i : Nat) : Nat := 47 + i

/-- `Upper` of R131: the upper descriptor bank is selected for the current thread. -/
def State.upperBank (s : State) : Bool := s.currentRwc.extraAddrModBit == 1#1 || s.currentConfig.addrModSetBase

/-- The descriptor section that an addr_mode operand selects, by the table of R131, or why there is none (R75, D9). Log 13. -/
def sectionIndex (addrMode : Nat) (upper : Bool) : Except Refusal Nat :=
  if addrMode < 4 then .ok (if upper then addrMode + 4 else addrMode)
  else if addrMode < 8 then (if upper then .error .addrModeInUpperBank else .ok addrMode)
  else .error .addrModeNamesNoDescriptor

/-- `DstBase` of R90. -/
def State.dstBase (s : State) : BitVec 10 := BitVec.ofNat 10 s.config.destRegwBase + BitVec.ofNat 10 s.currentConfig.mathOffset

/-- A SrcA or SrcB row aligned by the mask 0x38 (R91, R93). -/
def alignedSrcRow (counter : BitVec 6) : BitVec 6 := counter &&& 0x38#6

/-- `DstRow` of MVMUL and ELWADD: the sum modulo 1024, aligned to 8 rows (R91, R93, D20). Log 22. -/
def State.matrixDstRow (s : State) (dstField : BitVec 14) : BitVec 10 :=
  (s.currentRwc.dst + s.dstBase + dstField.setWidth 10) &&& 0x3f8#10

/-- `count` rows of SrcA or SrcB from `first` on; none is defined where they pass the last row (R99, D19). Log 21. -/
def srcRowBlock (first : BitVec 6) (count : Nat) : Rows :=
  if first.toNat + count ≤ Config.srcRows then .block first.toNat count else .noDefinedRows

/-- The SrcB rows of a broadcast ELWADD: the first row is the counter unaligned, what follows is not in the source (R93 (b), U11),
and above row 56 no row is defined (R99, U5). Log 22. -/
def broadcastSrcBRows (counter : BitVec 6) : Rows :=
  if 56 < counter.toNat then .noDefinedRows else .startingAt counter.toNat

/-- Element numbers of the 8 rows by 16 columns of Dst from `first` on (R91, R93). -/
def dstBlockCells (first : BitVec 10) : List Nat := List.range' (first.toNat * Config.cols) (8 * Config.cols)

/-- `Addr` of SFPLOAD and SFPSTORE (R95). -/
def State.sfpAddr (s : State) (imm10 : BitVec 10) : BitVec 10 := imm10 + s.dstBase + s.currentRwc.dst

/-- `LaneMap` of R98. -/
def laneMap (addr : BitVec 10) (exchange : Bool) (lane : Nat) : DstCell :=
  { row := (addr &&& 0x3fc#10) + BitVec.ofNat 10 (lane / 8)
    column := BitVec.ofNat 4 (lane % 8 * 2) + (if addr.getLsbD 1 || exchange then 1#4 else 0#4) }

/-- The cells of the 32 lanes, lane 0 first (R95, R96). -/
def laneCells (addr : BitVec 10) (exchange : Bool) : List DstCell := (List.range Config.lanes).map (laneMap addr exchange)

/-- Element number of a Dst cell. -/
def DstCell.number (c : DstCell) : Nat := c.row.toNat * Config.cols + c.column.toNat

/-- Apply `f` to each unit that CntSetMask selects, bit 0 Unpacker[0], bit 1 Unpacker[1], bit 2 Packers (R160, D18). Log 20. -/
def Adc.onUnits (a : Adc) (cntSetMask : BitVec 3) (f : AdcUnit → AdcUnit) : Adc :=
  { unpacker0 := if cntSetMask.getLsbD 0 then f a.unpacker0 else a.unpacker0
    unpacker1 := if cntSetMask.getLsbD 1 then f a.unpacker1 else a.unpacker1
    packers := if cntSetMask.getLsbD 2 then f a.packers else a.packers }

/-- Apply `f` to one channel of a unit. -/
def AdcUnit.onChannel (u : AdcUnit) (c : Channel) (f : AdcChannel → AdcChannel) : AdcUnit :=
  match c with
  | .ch0 => { u with channel0 := f u.channel0 }
  | .ch1 => { u with channel1 := f u.channel1 }

/-- The thread whose record SETADC writes: the issuing thread for ThreadOverride 0, else thread `n - 1` (R161, D15). Log 18. -/
def overrideThread (threadOverride : BitVec 2) (t : ThreadId) : ThreadId :=
  if threadOverride = 0#2 then t
  else if threadOverride = 1#2 then .t0
  else if threadOverride = 2#2 then .t1
  else .t2

/-- Set an X counter and its checkpoint (R162, R163, R165). -/
def AdcChannel.setX (c : AdcChannel) (v : BitVec 18) : AdcChannel := { c with x := v, xCr := v }

/-- Set a Y counter and its checkpoint (R162, R163). -/
def AdcChannel.setY (c : AdcChannel) (v : BitVec 13) : AdcChannel := { c with y := v, yCr := v }

/-- Set a Z counter and its checkpoint (R162, R164). -/
def AdcChannel.setZ (c : AdcChannel) (v : BitVec 8) : AdcChannel := { c with z := v, zCr := v }

/-- Set a W counter and its checkpoint (R162, R164). -/
def AdcChannel.setW (c : AdcChannel) (v : BitVec 8) : AdcChannel := { c with w := v, wCr := v }

/-- Set one counter of a channel to a 16-bit value, zero-extended or truncated to the counter's width (R162, D16). Log 19. -/
def AdcChannel.setDim (c : AdcChannel) (d : Dim) (value : BitVec 16) : AdcChannel :=
  match d with
  | .x => c.setX (value.setWidth 18)
  | .y => c.setY (value.setWidth 13)
  | .z => c.setZ (value.setWidth 8)
  | .w => c.setW (value.setWidth 8)

end Sys2Proof.Machine
end

