-- ==== Sys2Proof/Machine/AdcWriters.lean ====
section
/-! DEFINITION. The six ADC instructions (spec/43_adc.md R160 to R167). None touches an RWC (R177). -/

namespace Sys2Proof.Machine

/-- Apply `f` to the units that CntSetMask selects in the ADC record of thread `t`. -/
def State.onAdcUnits (s : State) (t : ThreadId) (cntSetMask : BitVec 3) (f : AdcUnit → AdcUnit) : State :=
  s.updateAdc t (fun a => a.onUnits cntSetMask f)

/-- SETADC (R161, R162): `newValue[17:16]` is the ThreadOverride and `newValue[15:0]` the value (D15). Log 18. -/
def execSetadc (cntSetMask : BitVec 3) (channel : Channel) (xyzw : Dim) (newValue : BitVec 18) (s : State) : Result :=
  .next (s.onAdcUnits (overrideThread (newValue.extractLsb' 16 2) s.currentThread) cntSetMask
    (fun u => u.onChannel channel (fun c => c.setDim xyzw (newValue.extractLsb' 0 16))))

/-- SETADCXY on one unit (R163); the checkpoints are written too (D14). Log 17. -/
def AdcUnit.setXY (u : AdcUnit) (y1Val x1Val y0Val x0Val : BitVec 3) (bitMask : BitVec 4) : AdcUnit :=
  let c0x := if bitMask.getLsbD 0 then u.channel0.setX (x0Val.setWidth 18) else u.channel0
  let c0 := if bitMask.getLsbD 1 then c0x.setY (y0Val.setWidth 13) else c0x
  let c1x := if bitMask.getLsbD 2 then u.channel1.setX (x1Val.setWidth 18) else u.channel1
  let c1 := if bitMask.getLsbD 3 then c1x.setY (y1Val.setWidth 13) else c1x
  { channel0 := c0, channel1 := c1 }

/-- SETADCXY (R163). -/
def execSetadcxy (cntSetMask y1Val x1Val y0Val x0Val : BitVec 3) (bitMask : BitVec 4) (s : State) : Result :=
  .next (s.onAdcUnits s.currentThread cntSetMask (fun u => u.setXY y1Val x1Val y0Val x0Val bitMask))

/-- SETADCZW on one unit (R164); widths by D17, checkpoints by D14. Log 17, log 19. -/
def AdcUnit.setZW (u : AdcUnit) (w1Val z1Val w0Val z0Val : BitVec 3) (bitMask : BitVec 4) : AdcUnit :=
  let c0z := if bitMask.getLsbD 0 then u.channel0.setZ (z0Val.setWidth 8) else u.channel0
  let c0 := if bitMask.getLsbD 1 then c0z.setW (w0Val.setWidth 8) else c0z
  let c1z := if bitMask.getLsbD 2 then u.channel1.setZ (z1Val.setWidth 8) else u.channel1
  let c1 := if bitMask.getLsbD 3 then c1z.setW (w1Val.setWidth 8) else c1z
  { channel0 := c0, channel1 := c1 }

/-- SETADCZW (R164). -/
def execSetadczw (cntSetMask w1Val z1Val w0Val z0Val : BitVec 3) (bitMask : BitVec 4) (s : State) : Result :=
  .next (s.onAdcUnits s.currentThread cntSetMask (fun u => u.setZW w1Val z1Val w0Val z0Val bitMask))

/-- SETADCXX (R165). -/
def execSetadcxx (cntSetMask : BitVec 3) (x1Val x0Val : BitVec 10) (s : State) : Result :=
  .next (s.onAdcUnits s.currentThread cntSetMask
    (fun u => { channel0 := u.channel0.setX (x0Val.setWidth 18), channel1 := u.channel1.setX (x1Val.setWidth 18) }))

/-- Add to X and Y of a channel, the checkpoints untouched (R166, D16). Log 19. -/
def AdcChannel.addXY (c : AdcChannel) (xInc yInc : BitVec 3) : AdcChannel :=
  { c with x := c.x + xInc.setWidth 18, y := c.y + yInc.setWidth 13 }

/-- INCADCXY (R166). -/
def execIncadcxy (cntSetMask y1Inc x1Inc y0Inc x0Inc : BitVec 3) (s : State) : Result :=
  .next (s.onAdcUnits s.currentThread cntSetMask
    (fun u => { channel0 := u.channel0.addXY x0Inc y0Inc, channel1 := u.channel1.addXY x1Inc y1Inc }))

/-- Add to Z and W of a channel, the checkpoints untouched (R167, D17). Log 19. -/
def AdcChannel.addZW (c : AdcChannel) (zInc wInc : BitVec 3) : AdcChannel :=
  { c with z := c.z + zInc.setWidth 8, w := c.w + wInc.setWidth 8 }

/-- INCADCZW (R167). -/
def execIncadczw (cntSetMask w1Inc z1Inc w0Inc z0Inc : BitVec 3) (s : State) : Result :=
  .next (s.onAdcUnits s.currentThread cntSetMask
    (fun u => { channel0 := u.channel0.addZW z0Inc w0Inc, channel1 := u.channel1.addZW z1Inc w1Inc }))

end Sys2Proof.Machine
end

