-- ==== Sys2Proof/Machine/Configuration.lean ====
section
/-! DEFINITION. SETC16, the one instruction that writes configuration (spec/60_exceptions.md R209). -/

namespace Sys2Proof.Machine

/-- SETC16 (R209), the abstract step `Cfg16(CurrentThread, addr32) <- value` (U15). It needs no mode. Log 11, log 26. -/
def execSetc16 (addr32 : BitVec 8) (value : CfgWord) (s : State) : Result := .next (s.writeCfg16 addr32.toNat value)

end Sys2Proof.Machine
end

