-- ==== Sys2Proof/Machine/AddrMod.lean ====
section
/-! DEFINITION. ApplyAddrMod and ApplyPartialAddrMod: the update of the RWCs after a consumer (spec/42_addrmod.md). -/

namespace Sys2Proof.Machine

/-- The three sub-descriptor words that ApplyAddrMod fetches (R132). -/
structure Descriptor where
  ab : CfgWord
  dst : CfgWord
  bias : CfgWord
  deriving DecidableEq, Repr

/-- Descriptor fetch of section `index` from the current thread's configuration (R132). -/
def State.descriptor (s : State) (index : Nat) : Descriptor :=
  { ab := s.cfg16 s.currentThread (abAddr32 index)
    dst := s.cfg16 s.currentThread (dstAddr32 index)
    bias := s.cfg16 s.currentThread (biasAddr32 index) }

/-- SrcA update: Clear over CR over plain increment (R133). -/
def Rwc.stepSrcA (r : Rwc) (ab : CfgWord) : Rwc :=
  if abSrcAClear ab then { r with srcA := 0, srcACr := 0 }
  else if abSrcACr ab then { r with srcA := r.srcACr + abSrcAIncr ab, srcACr := r.srcACr + abSrcAIncr ab }
  else { r with srcA := r.srcA + abSrcAIncr ab }

/-- SrcB update: Clear over CR over plain increment (R134). -/
def Rwc.stepSrcB (r : Rwc) (ab : CfgWord) : Rwc :=
  if abSrcBClear ab then { r with srcB := 0, srcBCr := 0 }
  else if abSrcBCr ab then { r with srcB := r.srcBCr + abSrcBIncr ab, srcBCr := r.srcBCr + abSrcBIncr ab }
  else { r with srcB := r.srcB + abSrcBIncr ab }

/-- Dst update: Clear over CToCR over CR over plain increment (R135). -/
def Rwc.stepDst (r : Rwc) (d : CfgWord) : Rwc :=
  if dstDestClear d then { r with dst := 0, dstCr := 0 }
  else if dstDestCToCr d then { r with dst := r.dst + dstDestIncr d, dstCr := r.dst + dstDestIncr d }
  else if dstDestCr d then { r with dst := r.dstCr + dstDestIncr d, dstCr := r.dstCr + dstDestIncr d }
  else { r with dst := r.dst + dstDestIncr d }

/-- FidelityPhase update, only when `updateFidelityPhase` (R136). -/
def Rwc.stepFidelity (r : Rwc) (updateFidelityPhase : Bool) (d : CfgWord) : Rwc :=
  if updateFidelityPhase then
    if dstFidelityClear d then { r with fidelityPhase := 0 }
    else { r with fidelityPhase := r.fidelityPhase + dstFidelityIncr d }
  else r

/-- ExtraAddrModBit update: Clear over a step that wraps (R137, D10). Log 14. -/
def Rwc.stepExtraBit (r : Rwc) (b : CfgWord) : Rwc :=
  if biasClear b then { r with extraAddrModBit := 0 }
  else if biasSteps b then { r with extraAddrModBit := r.extraAddrModBit + 1 }
  else r

/-- The five steps in the source's order (R140). -/
def Rwc.applyDescriptor (r : Rwc) (updateFidelityPhase : Bool) (d : Descriptor) : Rwc :=
  ((((r.stepSrcA d.ab).stepSrcB d.ab).stepDst d.dst).stepFidelity updateFidelityPhase d.dst).stepExtraBit d.bias

/-- Run the address effects of a consumer and then ApplyAddrMod (`updateFidelityPhase`) or ApplyPartialAddrMod (not), once (R9,
R130, R139). The descriptor and the counters are those of the state before the instruction. -/
def consume (addrMode : Nat) (updateFidelityPhase : Bool) (addressEffect : State → State) (s : State) : Result :=
  match sectionIndex addrMode s.upperBank with
  | .error r => .refused r
  | .ok index => .next ((addressEffect s).setRwc (s.currentRwc.applyDescriptor updateFidelityPhase (s.descriptor index)))

end Sys2Proof.Machine
end

