-- ==== Sys2Proof/Machine/Consumers.lean ====
section
/-! DEFINITION. The instructions that consume the RWCs: MVMUL, ELWADD, SFPLOAD, SFPSTORE (spec/40_rwc_consumers.md). What they
compute on data is not in the source (R4): a Dst element that one of them writes takes a free value (log 23). -/

namespace Sys2Proof.Machine

/-- The effect of a non-zero clear_dvalid operand: a named effect with no state (R19, R228). Log 16. -/
def clearDvalidEffects (operand : BitVec 2) : List Effect := if operand = 0#2 then [] else [.clearDvalid operand]

/-- The address effect of a matrix instruction: the rows, the Dst block written, the clear_dvalid effect. -/
def matrixEffect (srcA srcB : Rows) (dstRow : BitVec 10) (clearDvalid : BitVec 2) (s : State) : State :=
  (s.writeFreeDst (dstBlockCells dstRow)).emit
    (.matrixRows srcA srcB (.block dstRow.toNat 8) :: clearDvalidEffects clearDvalid)

/-- The address effect of SFPLOAD: the lanes' cells are read (R95). -/
def laneLoadEffect (cells : List DstCell) (s : State) : State :=
  s.emit [.laneLoads cells (cells.map (fun c => s.dst.read c.number))]

/-- The address effect of SFPSTORE: the lanes' cells are written (R96). -/
def laneStoreEffect (cells : List DstCell) (s : State) : State :=
  (s.writeFreeDst (cells.map DstCell.number)).emit [.laneStores cells]

/-- MVMUL (R91, R92, R99): 16 rows of SrcA, 8 of SrcB, 8 of Dst. -/
def execMvmul (clearDvalid : BitVec 2) (_instrMod19 : BitVec 3) (addrMode : BitVec 5) (dst : BitVec 14) (s : State) : Result :=
  consume addrMode.toNat true
    (matrixEffect (srcRowBlock (alignedSrcRow s.currentRwc.srcA) 16) (srcRowBlock (alignedSrcRow s.currentRwc.srcB) 8)
      (s.matrixDstRow dst) clearDvalid) s

/-- ELWADD (R93, R94, R99): 8 rows of each; with `broadcast` the SrcB row is used unaligned. -/
def execElwadd (clearDvalid : BitVec 2) (_destAccumEn : BitVec 1) (broadcast : Bool) (_broadcastCol : BitVec 1)
    (addrMode : BitVec 5) (dst : BitVec 14) (s : State) : Result :=
  consume addrMode.toNat true
    (matrixEffect (srcRowBlock (alignedSrcRow s.currentRwc.srcA) 8)
      (if broadcast then broadcastSrcBRows s.currentRwc.srcB else srcRowBlock (alignedSrcRow s.currentRwc.srcB) 8)
      (s.matrixDstRow dst) clearDvalid) s

/-- SFPLOAD (R95, R97, R98). -/
def execSfpload (_lregInd _instrMod0 : BitVec 4) (addrMode : BitVec 3) (imm10 : BitVec 10) (s : State) : Result :=
  consume addrMode.toNat false (laneLoadEffect (laneCells (s.sfpAddr imm10) s.addrBit1Exchange)) s

/-- SFPSTORE (R96, R97, R98). -/
def execSfpstore (_lregInd _instrMod0 : BitVec 4) (addrMode : BitVec 3) (imm10 : BitVec 10) (s : State) : Result :=
  consume addrMode.toNat false (laneStoreEffect (laneCells (s.sfpAddr imm10) s.addrBit1Exchange)) s

end Sys2Proof.Machine
end

