-- ==== Sys2Proof/Machine/NamedOnly.lean ====
section
/-! DEFINITION. The instructions that the spec names without encoding or semantics and asks a model to refuse by name
(spec/30_encoding.md R78, spec/93_implementation_defined.md U15). Log 33. -/

namespace Sys2Proof.Machine

/-- REPLAY (R78): loads the replay buffer, whose state and semantics are not in the source (R29, N13). -/
def execReplay (_params : BitVec 24) (_s : State) : Result := .refused .replayNotDescribed

/-- MOP (R78): re-issues instructions by a template that is not in the source (R29, N13). -/
def execMop (_params : BitVec 24) (_s : State) : Result := .refused .mopNotDescribed

/-- UNPACR (R78): runs an unpacker, whose addresses and transfers are not in the source (R178, R41). -/
def execUnpacr (_params : BitVec 24) (_s : State) : Result := .refused .unpacrNotDescribed

/-- PACR (R78): runs a packer, whose transfer and L1 address are not in the source (R175, R41). -/
def execPacr (_params : BitVec 24) (_s : State) : Result := .refused .pacrNotDescribed

end Sys2Proof.Machine
end

