-- ==== Sys2Proof/Machine/RwcWriters.lean ====
section
/-! DEFINITION. SETRWC and INCRWC (spec/41_setrwc_incrwc.md). -/

namespace Sys2Proof.Machine

/-- SETRWC, SrcA step (R111). -/
def Rwc.setSrcA (r : Rwc) (bitMask : BitVec 6) (rwcCr rwcA : BitVec 4) : Rwc :=
  let v : BitVec 6 := if flagCrA rwcCr then r.srcACr + rwcA.setWidth 6 else rwcA.setWidth 6
  if flagSetA bitMask then { r with srcA := v, srcACr := v } else r

/-- SETRWC, SrcB step (R112). -/
def Rwc.setSrcB (r : Rwc) (bitMask : BitVec 6) (rwcCr rwcB : BitVec 4) : Rwc :=
  let v : BitVec 6 := if flagCrB rwcCr then r.srcBCr + rwcB.setWidth 6 else rwcB.setWidth 6
  if flagSetB bitMask then { r with srcB := v, srcBCr := v } else r

/-- SETRWC, Dst step: C_TO_CR_MODE over CR_D (R113, D11). Log 15. -/
def Rwc.setDst (r : Rwc) (bitMask : BitVec 6) (rwcCr rwcD : BitVec 4) : Rwc :=
  let v : BitVec 10 :=
    if flagCToCr rwcCr then r.dst + rwcD.setWidth 10
    else if flagCrD rwcCr then r.dstCr + rwcD.setWidth 10
    else rwcD.setWidth 10
  if flagDstStep bitMask then { r with dst := v, dstCr := v } else r

/-- SETRWC, FidelityPhase step (R114). -/
def Rwc.setFidelity (r : Rwc) (bitMask : BitVec 6) : Rwc := if flagSetF bitMask then { r with fidelityPhase := 0 } else r

/-- SETRWC, bank step: effects with no state (R115, D13). Log 16. -/
def bankEffects (clearAbVld : BitVec 2) : List Effect :=
  (if clearAbVld.getLsbD 0 then [.releaseSrcaBank, .flipSrcaBank] else [])
    ++ (if clearAbVld.getLsbD 1 then [.releaseSrcbBank, .flipSrcbBank] else [])

/-- SETRWC (R110). -/
def execSetrwc (clearAbVld : BitVec 2) (rwcCr rwcD rwcB rwcA : BitVec 4) (bitMask : BitVec 6) (s : State) : Result :=
  .next ((s.setRwc
    ((((s.currentRwc.setSrcA bitMask rwcCr rwcA).setSrcB bitMask rwcCr rwcB).setDst bitMask rwcCr rwcD).setFidelity bitMask)).emit
      (bankEffects clearAbVld))

/-- INCRWC, SrcA update (R121). -/
def Rwc.incSrcA (r : Rwc) (rwcCr : BitVec 6) (rwcA : BitVec 4) : Rwc :=
  if flagCrA rwcCr then { r with srcA := r.srcACr + rwcA.setWidth 6, srcACr := r.srcACr + rwcA.setWidth 6 }
  else { r with srcA := r.srcA + rwcA.setWidth 6 }

/-- INCRWC, SrcB update (R122). -/
def Rwc.incSrcB (r : Rwc) (rwcCr : BitVec 6) (rwcB : BitVec 4) : Rwc :=
  if flagCrB rwcCr then { r with srcB := r.srcBCr + rwcB.setWidth 6, srcBCr := r.srcBCr + rwcB.setWidth 6 }
  else { r with srcB := r.srcB + rwcB.setWidth 6 }

/-- INCRWC, Dst update (R123). -/
def Rwc.incDst (r : Rwc) (rwcCr : BitVec 6) (rwcD : BitVec 4) : Rwc :=
  if flagCrD rwcCr then { r with dst := r.dstCr + rwcD.setWidth 10, dstCr := r.dstCr + rwcD.setWidth 10 }
  else { r with dst := r.dst + rwcD.setWidth 10 }

/-- INCRWC (R120). -/
def execIncrwc (rwcCr : BitVec 6) (rwcD rwcB rwcA : BitVec 4) (s : State) : Result :=
  .next (s.setRwc (((s.currentRwc.incSrcA rwcCr rwcA).incSrcB rwcCr rwcB).incDst rwcCr rwcD))

end Sys2Proof.Machine
end

