-- ==== Sys2Proof/Machine/Dispatch.lean ====
section
/-! DEFINITION. The effect of an instruction on the state: one arm for each constructor. -/

namespace Sys2Proof.Machine

/-- Execute an instruction of the current thread. -/
def exec (i : Instr) (s : State) : Host.Outcome State Fault Refusal :=
  match i with
  | .setrwc clearAbVld rwcCr rwcD rwcB rwcA bitMask => Sys2Proof.Machine.execSetrwc clearAbVld rwcCr rwcD rwcB rwcA bitMask s
  | .incrwc rwcCr rwcD rwcB rwcA => Sys2Proof.Machine.execIncrwc rwcCr rwcD rwcB rwcA s
  | .mvmul clearDvalid instrMod19 addrMode dst => Sys2Proof.Machine.execMvmul clearDvalid instrMod19 addrMode dst s
  | .elwadd clearDvalid destAccumEn broadcast broadcastCol addrMode dst => Sys2Proof.Machine.execElwadd clearDvalid destAccumEn broadcast broadcastCol addrMode dst s
  | .sfpload lregInd instrMod0 addrMode imm10 => Sys2Proof.Machine.execSfpload lregInd instrMod0 addrMode imm10 s
  | .sfpstore lregInd instrMod0 addrMode imm10 => Sys2Proof.Machine.execSfpstore lregInd instrMod0 addrMode imm10 s
  | .setadc cntSetMask channel xyzw newValue => Sys2Proof.Machine.execSetadc cntSetMask channel xyzw newValue s
  | .setadcxy cntSetMask y1Val x1Val y0Val x0Val bitMask => Sys2Proof.Machine.execSetadcxy cntSetMask y1Val x1Val y0Val x0Val bitMask s
  | .setadczw cntSetMask w1Val z1Val w0Val z0Val bitMask => Sys2Proof.Machine.execSetadczw cntSetMask w1Val z1Val w0Val z0Val bitMask s
  | .setadcxx cntSetMask x1Val x0Val => Sys2Proof.Machine.execSetadcxx cntSetMask x1Val x0Val s
  | .incadcxy cntSetMask y1Inc x1Inc y0Inc x0Inc => Sys2Proof.Machine.execIncadcxy cntSetMask y1Inc x1Inc y0Inc x0Inc s
  | .incadczw cntSetMask w1Inc z1Inc w0Inc z0Inc => Sys2Proof.Machine.execIncadczw cntSetMask w1Inc z1Inc w0Inc z0Inc s
  | .setc16 addr32 value => Sys2Proof.Machine.execSetc16 addr32 value s
  | .replay params => Sys2Proof.Machine.execReplay params s
  | .mop params => Sys2Proof.Machine.execMop params s
  | .unpacr params => Sys2Proof.Machine.execUnpacr params s
  | .pacr params => Sys2Proof.Machine.execPacr params s

end Sys2Proof.Machine
end

