-- ==== Sys2Proof/Machine/Step.lean ====
section
/-! DEFINITION. One step: the scheduled thread issues its next instruction, a word to decode or a SETC16 in abstract form, which is executed whole
(spec/10_state.md R21, spec/20_memory.md R44, R47, R48). -/

namespace Sys2Proof.Machine

/-- One step of the machine. -/
def step (s : State) : Host.Outcome State Fault Refusal :=
  match s.schedule with
  | [] => .fault .runEnded
  | t :: rest =>
    match s.nextEntry t with
    | none => .fault (.sequenceEnded t)
    | some entry =>
      match entry.instr with
      | .error e => .refused (.undecodable e)
      | .ok i => exec i (s.issue t rest)

/-- The state with the instruction of the table's numbering placed where the next step fetches. Programs come from outside the
machine (R52); this stands for their load. Log 2. -/
def State.withFetchWord (s : State) (nbits w : Nat) : State := s.placeWord (BitVec.ofNat 32 (w % 2 ^ nbits))

end Sys2Proof.Machine
end

