-- ==== Sys2Proof/Machine/AdcReaders.lean ====
section
/-! DEFINITION. What the packers and unpackers form from the ADCs (spec/43_adc.md R168, R173 to R175). PACR and UNPACR, which
use them, have no semantics in the spec (R78); the formulas stand here as functions of the state. -/

namespace Sys2Proof.Machine

/-- Datum count of a unit: Channel[1].X - Channel[0].X + 1, a free value where the difference is negative (R168, U7). DESIGN CHOICE:
a number without a width, so that no count wraps; the source states none (R168, U7, N8). Log 28. -/
def AdcUnit.datumCount (u : AdcUnit) : Nat :=
  if u.channel0.x.toNat ≤ u.channel1.x.toNat then u.channel1.x.toNat - u.channel0.x.toNat + 1
  else Config.freeDatumCount u.channel0.x u.channel1.x

/-- Packer Dst input address of thread `t`, first stage, modulo 2^32 (R173). -/
def State.packerDstAddr (s : State) (t : ThreadId) : BitVec 32 :=
  let c := (s.adc.get t).packers.channel0
  BitVec.ofNat 32 (s.config.pck0BaseReg0 + c.x.toNat * (s.config.pck0Xstride % 16) + c.y.toNat * s.config.pck0Ystride
    + c.z.toNat * s.config.pck0Zstride + c.w.toNat * s.config.pck0Wstride)

/-- Packer Dst input address of thread `t` and packer `i`, second stage: a datum index into Dst, formed in 32 bits (R174, D27).
Log 29. -/
def State.packerDatumIndex (s : State) (t : ThreadId) (i : Fin 4) : BitVec 32 :=
  let mask := BitVec.ofNat 32 s.config.adcXMask
  let x := (s.adc.get t).packers.channel0.x.setWidth 32
  (BitVec.ofNat 32 ((s.packerDstAddr t).toNat / s.config.bytesPerDatum) &&& ~~~mask) + (x &&& mask)
    + BitVec.ofNat 32 (s.config.packSecOffset[i] * 16)

/-- Packer L1 output address of thread `t`: any value, a function of the base and of Channel[1].Y, Z, W (R175, U14). Log 28. -/
def State.packerL1Address (s : State) (t : ThreadId) : Nat :=
  let c := (s.adc.get t).packers.channel1
  Config.freePackerL1Address s.config.pck0BaseReg1 c.y c.z c.w

end Sys2Proof.Machine
end

