-- ==== Sys2Proof/Safety.lean ====
section
/-! DEFINITION. The terms that the statements use: which descriptor section an addr_mode selects, which instructions consume
the RWCs and which write the ADCs, and the invariant that a safe state meets. -/

namespace Sys2Proof.Machine

/-- The addr_mode operand of a consumer and its UpdateFidelityPhase argument (R92, R94, R97); none for any other instruction. -/
def addrModeUse : Instr → Option (Nat × Bool)
  | .mvmul _ _ addrMode _ => some (addrMode.toNat, true)
  | .elwadd _ _ _ _ addrMode _ => some (addrMode.toNat, true)
  | .sfpload _ _ addrMode _ => some (addrMode.toNat, false)
  | .sfpstore _ _ addrMode _ => some (addrMode.toNat, false)
  | .setrwc _ _ _ _ _ _ => none
  | .incrwc _ _ _ _ => none
  | .setadc _ _ _ _ => none
  | .setadcxy _ _ _ _ _ _ => none
  | .setadczw _ _ _ _ _ _ => none
  | .setadcxx _ _ _ => none
  | .incadcxy _ _ _ _ _ => none
  | .incadczw _ _ _ _ _ => none
  | .setc16 _ _ => none
  | .replay _ => none
  | .mop _ => none
  | .unpacr _ => none
  | .pacr _ => none

/-- The thread whose ADC record an ADC instruction issued by `t` writes (R161); none for any other instruction. -/
def adcTarget (t : ThreadId) : Instr → Option ThreadId
  | .setadc _ _ _ newValue => some (overrideThread (newValue.extractLsb' 16 2) t)
  | .setadcxy _ _ _ _ _ _ => some t
  | .setadczw _ _ _ _ _ _ => some t
  | .setadcxx _ _ _ => some t
  | .incadcxy _ _ _ _ _ => some t
  | .incadczw _ _ _ _ _ => some t
  | .setrwc _ _ _ _ _ _ => none
  | .incrwc _ _ _ _ => none
  | .mvmul _ _ _ _ => none
  | .elwadd _ _ _ _ _ _ => none
  | .sfpload _ _ _ _ => none
  | .sfpstore _ _ _ _ => none
  | .setc16 _ _ => none
  | .replay _ => none
  | .mop _ => none
  | .unpacr _ => none
  | .pacr _ => none

/-- `Upper` of R131, as the rule writes it. -/
def UpperSelected (s : State) : Prop :=
  (s.rwc.get s.currentThread).extraAddrModBit.toNat = 1 ∨ (s.threadConfig.get s.currentThread).addrModSetBase = true

/-- The table of R131: addr_mode `am` selects descriptor section `index`. -/
def SelectsSection (s : State) (am index : Nat) : Prop :=
  (¬ UpperSelected s ∧ am < 8 ∧ index = am) ∨ (UpperSelected s ∧ am < 4 ∧ index = am + 4)

/-- The ADC unit that bit `k` of CntSetMask selects (R160). -/
def Adc.unit (a : Adc) (k : Fin 3) : AdcUnit :=
  match k with
  | 0 => a.unpacker0
  | 1 => a.unpacker1
  | 2 => a.packers

/-- One channel of a unit. -/
def AdcUnit.channel (u : AdcUnit) (c : Channel) : AdcChannel :=
  match c with
  | .ch0 => u.channel0
  | .ch1 => u.channel1

/-- The number in a main counter. -/
def AdcChannel.counter (c : AdcChannel) (d : Dim) : Nat :=
  match d with
  | .x => c.x.toNat
  | .y => c.y.toNat
  | .z => c.z.toNat
  | .w => c.w.toNat

/-- The number in the `_Cr` copy of a counter. -/
def AdcChannel.checkpoint (c : AdcChannel) (d : Dim) : Nat :=
  match d with
  | .x => c.xCr.toNat
  | .y => c.yCr.toNat
  | .z => c.zCr.toNat
  | .w => c.wCr.toNat

/-- Width of an ADC counter (R5, R24). -/
def dimWidth (d : Dim) : Nat :=
  match d with
  | .x => 18
  | .y => 13
  | .z => 8
  | .w => 8

/-- In `u'` the counter and its checkpoint hold `n`. -/
def CounterSet (u' : AdcUnit) (c : Channel) (d : Dim) (n : Nat) : Prop :=
  (u'.channel c).counter d = n ∧ (u'.channel c).checkpoint d = n

/-- Between `u` and `u'` the counter and its checkpoint kept their values. -/
def CounterKept (u u' : AdcUnit) (c : Channel) (d : Dim) : Prop :=
  (u'.channel c).counter d = (u.channel c).counter d ∧ (u'.channel c).checkpoint d = (u.channel c).checkpoint d

/-- Between `u` and `u'` the counter grew by `n` modulo its width and its checkpoint kept its value. -/
def CounterAdded (u u' : AdcUnit) (c : Channel) (d : Dim) (n : Nat) : Prop :=
  (u'.channel c).counter d = ((u.channel c).counter d + n) % 2 ^ dimWidth d
    ∧ (u'.channel c).checkpoint d = (u.channel c).checkpoint d

/-- The reading of SrcAIncr, SrcACR and SrcAClear that R15 gives, as the update of R133 on numbers. -/
def SrcAUpdated (ab : Nat) (r r' : Rwc) : Prop :=
  if ab / 128 % 2 = 1 then r'.srcA.toNat = 0 ∧ r'.srcACr.toNat = 0
  else if ab / 64 % 2 = 1 then r'.srcACr.toNat = (r.srcACr.toNat + ab % 64) % 64 ∧ r'.srcA = r'.srcACr
  else r'.srcA.toNat = (r.srcA.toNat + ab % 64) % 64 ∧ r'.srcACr = r.srcACr

/-- The reading of SrcBIncr, SrcBCR and SrcBClear that R15 gives, as the update of R134 on numbers. -/
def SrcBUpdated (ab : Nat) (r r' : Rwc) : Prop :=
  if ab / 2 ^ 15 % 2 = 1 then r'.srcB.toNat = 0 ∧ r'.srcBCr.toNat = 0
  else if ab / 2 ^ 14 % 2 = 1 then r'.srcBCr.toNat = (r.srcBCr.toNat + ab / 2 ^ 8 % 64) % 64 ∧ r'.srcB = r'.srcBCr
  else r'.srcB.toNat = (r.srcB.toNat + ab / 2 ^ 8 % 64) % 64 ∧ r'.srcBCr = r.srcBCr

/-- The reading of DestIncr, DestCR, DestClear and DestCToCR that R16 gives, as the update of R135 on numbers. -/
def DstUpdated (d : Nat) (r r' : Rwc) : Prop :=
  if d / 2 ^ 11 % 2 = 1 then r'.dst.toNat = 0 ∧ r'.dstCr.toNat = 0
  else if d / 2 ^ 12 % 2 = 1 then r'.dst.toNat = (r.dst.toNat + d % 1024) % 1024 ∧ r'.dstCr = r'.dst
  else if d / 2 ^ 10 % 2 = 1 then r'.dstCr.toNat = (r.dstCr.toNat + d % 1024) % 1024 ∧ r'.dst = r'.dstCr
  else r'.dst.toNat = (r.dst.toNat + d % 1024) % 1024 ∧ r'.dstCr = r.dstCr

/-- The reading of FidelityIncr and FidelityClear that R16 gives, as the update of R136 on numbers, `upd` its UpdateFidelityPhase. -/
def FidelityUpdated (upd : Bool) (d : Nat) (r r' : Rwc) : Prop :=
  r'.fidelityPhase.toNat =
    if upd = true then
      if d / 2 ^ 15 % 2 = 1 then 0 else (r.fidelityPhase.toNat + d / 2 ^ 13 % 4) % 4
    else r.fidelityPhase.toNat

/-- The reading of BiasIncr and BiasClear that R17 gives, as the update of R137 on numbers; the wrap is D10. Log 14. -/
def ExtraBitUpdated (b : Nat) (r r' : Rwc) : Prop :=
  r'.extraAddrModBit.toNat =
    if b / 16 % 2 = 1 then 0
    else if b % 4 ≠ 0 then (r.extraAddrModBit.toNat + 1) % 2
    else r.extraAddrModBit.toNat

/-- Bit `k` of a bit mask operand. -/
abbrev MaskBit {n : Nat} (mask : BitVec n) (k : Nat) : Prop := mask.toNat / 2 ^ k % 2 = 1

/-- The state with `t` as the issuing thread. -/
def State.asThread (s : State) (t : ThreadId) : State := { s with currentThread := t }

/-- What every step keeps: each file is in canonical form and inside its address space (R14, R26), no position stands past the
end of its sequence (R21), and BytesPerDatum is not zero (P3). -/
structure State.Inv (s : State) : Prop where
  l1_wf : Memory.wf s.l1 = true
  srcA_wf : Cells.wf s.srcA = true
  srcA_within : Cells.within (Config.srcBanks * Config.srcRows * Config.cols) s.srcA = true
  srcB_wf : Cells.wf s.srcB = true
  srcB_within : Cells.within (Config.srcBanks * Config.srcRows * Config.cols) s.srcB = true
  dst_wf : Cells.wf s.dst = true
  dst_within : Cells.within (Config.dstRows * Config.cols) s.dst = true
  config_wf : ∀ t, Cells.wf (s.threadConfig.get t).words = true
  config_within : ∀ t, Cells.within 256 (s.threadConfig.get t).words = true
  position_le : ∀ t, (s.sequences.get t).position ≤ (s.sequences.get t).entries.length
  bytesPerDatum_pos : 0 < s.config.bytesPerDatum

/-- A step from `s` completes. -/
def Completes (s : State) : Prop := ∃ s', step s = .next s'

end Sys2Proof.Machine
end

