-- ==== Sys2Proof/Certificates/Slice0/Obligations.lean ====
section
/-! DEFINITION. The statements for the provers. Counters and descriptor words are read as numbers and combined by the
arithmetic of the rules (spec/00_scope.md R7), not by the model's own operations. -/

open Sys2Proof Sys2Proof.Machine

/-- Every well-formed instruction is the one that its own word decodes to (R60, R62 to R72, R78; layouts: logs 6 to 10, 12). SETC16 has
no word and is not well-formed (R78, U15; log 11). -/
def Obligations.DecodeOfEncodeIsTheInstruction : Prop :=
  ∀ i : Instr, i.wf = true → decode (encode i) = .ok i

/-- A word that decodes to an instruction is that instruction's own word, and the instruction is well-formed: no assigned bit
is dropped and no unassigned bit is accepted, MVMUL's second operand among them (R75, D12; logs 6 to 10, 12). -/
def Obligations.DecodedWordsAreEncodings : Prop :=
  ∀ (w : Word) (i : Instr), decode w = .ok i → i.wf = true ∧ encode i = w

/-- R63: the fields of a SETRWC word, at their W bits and at their S bits. -/
def Obligations.SetrwcFieldsOfItsWord : Prop :=
  ∀ w : Word, w.toNat / 2 ^ 24 = 0x37 → w.toNat / 2 ^ 4 % 4 = 0 →
    ∃ (clearAbVld : BitVec 2) (rwcCr rwcD rwcB rwcA : BitVec 4) (bitMask : BitVec 6),
      decode w = .ok (.setrwc clearAbVld rwcCr rwcD rwcB rwcA bitMask)
        ∧ clearAbVld.toNat = w.toNat / 2 ^ 22 % 4
        ∧ rwcCr.toNat = w.toNat / 2 ^ 18 % 16
        ∧ rwcD.toNat = w.toNat / 2 ^ 14 % 16
        ∧ rwcB.toNat = w.toNat / 2 ^ 10 % 16
        ∧ rwcA.toNat = w.toNat / 2 ^ 6 % 16
        ∧ bitMask.toNat = w.toNat % 64
        ∧ (toStream w).toNat / 2 ^ 26 = 0x37 ∧ (toStream w).toNat % 4 = 0
        ∧ clearAbVld.toNat = (toStream w).toNat / 2 ^ 24 % 4
        ∧ rwcCr.toNat = (toStream w).toNat / 2 ^ 20 % 16
        ∧ rwcD.toNat = (toStream w).toNat / 2 ^ 16 % 16
        ∧ rwcB.toNat = (toStream w).toNat / 2 ^ 12 % 16
        ∧ rwcA.toNat = (toStream w).toNat / 2 ^ 8 % 16
        ∧ bitMask.toNat = (toStream w).toNat / 2 ^ 2 % 64

/-- The stream word is the TT_OP word rotated left by 2, and the decoder reads a stream word as its TT_OP word (R61; that it is a
rotation is general knowledge by the spec's own mark, log 6). -/
def Obligations.StreamWordIsTheRotation : Prop :=
  ∀ w : Word,
    (toStream w).toNat = w.toNat % 2 ^ 30 * 4 + w.toNat / 2 ^ 30
      ∧ ofStream (toStream w) = w
      ∧ toStream (ofStream w) = w
      ∧ decodeStream (toStream w) = decode w

/-- The stream words that the source lists decode to the instructions it prints beside them (95 T4). -/
def Obligations.ListedStreamWordsDecode : Prop :=
  decodeStream 0x98000000#32 = .ok (.mvmul 0 0 0 0)
    ∧ decodeStream 0x98050000#32 = .ok (.mvmul 0 0 5 0)
    ∧ decodeStream 0xdc00003c#32 = .ok (.setrwc 0 0 0 0 0 15)
    ∧ decodeStream 0x4600002d#32 = .ok (.setadcxy 4 0 0 0 0 11)
    ∧ decodeStream 0x5200003d#32 = .ok (.setadczw 4 0 0 0 0 15)

/-- R111: SETRWC, SrcA step. -/
def Obligations.SetrwcSrcAStep : Prop :=
  ∀ (clearAbVld : BitVec 2) (rwcCr rwcD rwcB rwcA : BitVec 4) (bitMask : BitVec 6) (s : State),
    ∃ s', exec (.setrwc clearAbVld rwcCr rwcD rwcB rwcA bitMask) s = .next s' ∧
      let r := s.rwc.get s.currentThread
      let r' := s'.rwc.get s.currentThread
      if MaskBit bitMask 0 then
        r'.srcA.toNat = (if MaskBit rwcCr 0 then (r.srcACr.toNat + rwcA.toNat) % 64 else rwcA.toNat) ∧ r'.srcACr = r'.srcA
      else r'.srcA = r.srcA ∧ r'.srcACr = r.srcACr

/-- R112: SETRWC, SrcB step. -/
def Obligations.SetrwcSrcBStep : Prop :=
  ∀ (clearAbVld : BitVec 2) (rwcCr rwcD rwcB rwcA : BitVec 4) (bitMask : BitVec 6) (s : State),
    ∃ s', exec (.setrwc clearAbVld rwcCr rwcD rwcB rwcA bitMask) s = .next s' ∧
      let r := s.rwc.get s.currentThread
      let r' := s'.rwc.get s.currentThread
      if MaskBit bitMask 1 then
        r'.srcB.toNat = (if MaskBit rwcCr 1 then (r.srcBCr.toNat + rwcB.toNat) % 64 else rwcB.toNat) ∧ r'.srcBCr = r'.srcB
      else r'.srcB = r.srcB ∧ r'.srcBCr = r.srcBCr

/-- SETRWC, Dst step, with C_TO_CR_MODE over CR_D (R113). That SET_F alone runs the step is the spec's decision D11 (log 15). -/
def Obligations.SetrwcDstStep : Prop :=
  ∀ (clearAbVld : BitVec 2) (rwcCr rwcD rwcB rwcA : BitVec 4) (bitMask : BitVec 6) (s : State),
    ∃ s', exec (.setrwc clearAbVld rwcCr rwcD rwcB rwcA bitMask) s = .next s' ∧
      let r := s.rwc.get s.currentThread
      let r' := s'.rwc.get s.currentThread
      if bitMask.toNat / 4 % 4 = 0 then r'.dst = r.dst ∧ r'.dstCr = r.dstCr
      else
        r'.dstCr = r'.dst
          ∧ r'.dst.toNat = (if MaskBit rwcCr 3 then (r.dst.toNat + rwcD.toNat) % 1024
              else if MaskBit rwcCr 2 then (r.dstCr.toNat + rwcD.toNat) % 1024
              else rwcD.toNat)

/-- R114: SETRWC, FidelityPhase step. -/
def Obligations.SetrwcFidelityStep : Prop :=
  ∀ (clearAbVld : BitVec 2) (rwcCr rwcD rwcB rwcA : BitVec 4) (bitMask : BitVec 6) (s : State),
    ∃ s', exec (.setrwc clearAbVld rwcCr rwcD rwcB rwcA bitMask) s = .next s' ∧
      (s'.rwc.get s.currentThread).fidelityPhase.toNat
        = if MaskBit bitMask 3 then 0 else (s.rwc.get s.currentThread).fidelityPhase.toNat

/-- SETRWC, bank step, and no RWC or ADC field depends on it (R115). That the effects have no state is the spec's decision D13
(log 16), that they stand in a list in this order with their thread is the model's choice (log 32). -/
def Obligations.SetrwcBankStep : Prop :=
  ∀ (clearAbVld : BitVec 2) (rwcCr rwcD rwcB rwcA : BitVec 4) (bitMask : BitVec 6) (s : State),
    ∃ s', exec (.setrwc clearAbVld rwcCr rwcD rwcB rwcA bitMask) s = .next s' ∧
      s'.effects = s.effects
        ++ (if MaskBit clearAbVld 0 then [⟨s.currentThread, .releaseSrcaBank⟩, ⟨s.currentThread, .flipSrcaBank⟩] else [])
        ++ (if MaskBit clearAbVld 1 then [⟨s.currentThread, .releaseSrcbBank⟩, ⟨s.currentThread, .flipSrcbBank⟩] else [])
      ∧ s'.adc = s.adc
      ∧ ∃ s₀, exec (.setrwc 0 rwcCr rwcD rwcB rwcA bitMask) s = .next s₀ ∧ s'.rwc = s₀.rwc

/-- R117: the usual form, from its stream word to its effect. -/
def Obligations.SetrwcUsualFormZeroesCounters : Prop :=
  decodeStream 0xdc00003c#32 = .ok (.setrwc 0 0 0 0 0 15)
    ∧ ∀ s : State, ∃ s', exec (.setrwc 0 0 0 0 0 15) s = .next s' ∧
        let r' := s'.rwc.get s.currentThread
        r'.srcA = 0 ∧ r'.srcACr = 0 ∧ r'.srcB = 0 ∧ r'.srcBCr = 0 ∧ r'.dst = 0 ∧ r'.dstCr = 0 ∧ r'.fidelityPhase = 0
          ∧ r'.extraAddrModBit = (s.rwc.get s.currentThread).extraAddrModBit

/-- R121, R122, R123: INCRWC updates the three counter pairs. -/
def Obligations.IncrwcUpdatesTheCounters : Prop :=
  ∀ (rwcCr : BitVec 6) (rwcD rwcB rwcA : BitVec 4) (s : State),
    ∃ s', exec (.incrwc rwcCr rwcD rwcB rwcA) s = .next s' ∧
      let r := s.rwc.get s.currentThread
      let r' := s'.rwc.get s.currentThread
      (if MaskBit rwcCr 0 then r'.srcACr.toNat = (r.srcACr.toNat + rwcA.toNat) % 64 ∧ r'.srcA = r'.srcACr
        else r'.srcA.toNat = (r.srcA.toNat + rwcA.toNat) % 64 ∧ r'.srcACr = r.srcACr)
      ∧ (if MaskBit rwcCr 1 then r'.srcBCr.toNat = (r.srcBCr.toNat + rwcB.toNat) % 64 ∧ r'.srcB = r'.srcBCr
        else r'.srcB.toNat = (r.srcB.toNat + rwcB.toNat) % 64 ∧ r'.srcBCr = r.srcBCr)
      ∧ (if MaskBit rwcCr 2 then r'.dstCr.toNat = (r.dstCr.toNat + rwcD.toNat) % 1024 ∧ r'.dst = r'.dstCr
        else r'.dst.toNat = (r.dst.toNat + rwcD.toNat) % 1024 ∧ r'.dstCr = r.dstCr)

/-- What SETRWC and INCRWC leave alone (R116, R124, R10): every field but the issuing thread's RWC record and, for SETRWC, the
recorded effects; in the record ExtraAddrModBit, and for INCRWC FidelityPhase too. -/
def Obligations.RwcWritersFrame : Prop :=
  (∀ (clearAbVld : BitVec 2) (rwcCr rwcD rwcB rwcA : BitVec 4) (bitMask : BitVec 6) (s s' : State),
    exec (.setrwc clearAbVld rwcCr rwcD rwcB rwcA bitMask) s = .next s' →
      s' = { s with rwc := s'.rwc, effects := s'.effects }
        ∧ (∀ u, u ≠ s.currentThread → s'.rwc.get u = s.rwc.get u)
        ∧ (s'.rwc.get s.currentThread).extraAddrModBit = (s.rwc.get s.currentThread).extraAddrModBit
        ∧ ∀ a, Memory.read s'.l1 a = Memory.read s.l1 a)
  ∧ (∀ (rwcCr : BitVec 6) (rwcD rwcB rwcA : BitVec 4) (s s' : State),
    exec (.incrwc rwcCr rwcD rwcB rwcA) s = .next s' →
      s' = { s with rwc := s'.rwc }
        ∧ (∀ u, u ≠ s.currentThread → s'.rwc.get u = s.rwc.get u)
        ∧ (s'.rwc.get s.currentThread).extraAddrModBit = (s.rwc.get s.currentThread).extraAddrModBit
        ∧ (s'.rwc.get s.currentThread).fidelityPhase = (s.rwc.get s.currentThread).fidelityPhase
        ∧ ∀ a, Memory.read s'.l1 a = Memory.read s.l1 a)

/-- A SETRWC of A, B and D with the three checkpoint flags is the INCRWC with the same flags (R125). -/
def Obligations.SetrwcWithCheckpointFlagsIsIncrwc : Prop :=
  ∀ (rwcD rwcB rwcA : BitVec 4) (s : State),
    exec (.setrwc 0 7 rwcD rwcB rwcA 7) s = exec (.incrwc 7 rwcD rwcB rwcA) s

/-- R133, for every consumer and every section that its addr_mode selects. -/
def Obligations.ConsumerSrcAUpdate : Prop :=
  ∀ (i : Instr) (am : Nat) (upd : Bool) (s : State) (index : Nat),
    addrModeUse i = some (am, upd) → SelectsSection s am index →
      ∃ s', exec i s = .next s' ∧
        SrcAUpdated (s.cfg16 s.currentThread (12 + index)).toNat (s.rwc.get s.currentThread) (s'.rwc.get s.currentThread)

/-- R134, for every consumer and every section that its addr_mode selects. -/
def Obligations.ConsumerSrcBUpdate : Prop :=
  ∀ (i : Instr) (am : Nat) (upd : Bool) (s : State) (index : Nat),
    addrModeUse i = some (am, upd) → SelectsSection s am index →
      ∃ s', exec i s = .next s' ∧
        SrcBUpdated (s.cfg16 s.currentThread (12 + index)).toNat (s.rwc.get s.currentThread) (s'.rwc.get s.currentThread)

/-- R135, for every consumer and every section that its addr_mode selects. -/
def Obligations.ConsumerDstUpdate : Prop :=
  ∀ (i : Instr) (am : Nat) (upd : Bool) (s : State) (index : Nat),
    addrModeUse i = some (am, upd) → SelectsSection s am index →
      ∃ s', exec i s = .next s' ∧
        DstUpdated (s.cfg16 s.currentThread (28 + index)).toNat (s.rwc.get s.currentThread) (s'.rwc.get s.currentThread)

/-- R136: FidelityPhase, only where the consumer's UpdateFidelityPhase is true. -/
def Obligations.ConsumerFidelityUpdate : Prop :=
  ∀ (i : Instr) (am : Nat) (upd : Bool) (s : State) (index : Nat),
    addrModeUse i = some (am, upd) → SelectsSection s am index →
      ∃ s', exec i s = .next s' ∧
        FidelityUpdated upd (s.cfg16 s.currentThread (28 + index)).toNat (s.rwc.get s.currentThread) (s'.rwc.get s.currentThread)

/-- ExtraAddrModBit after a consumer (R137); that a step from 1 wraps to 0 is the spec's decision D10 (log 14). -/
def Obligations.ConsumerExtraBitUpdate : Prop :=
  ∀ (i : Instr) (am : Nat) (upd : Bool) (s : State) (index : Nat),
    addrModeUse i = some (am, upd) → SelectsSection s am index →
      ∃ s', exec i s = .next s' ∧
        ExtraBitUpdated (s.cfg16 s.currentThread (47 + index)).toNat (s.rwc.get s.currentThread) (s'.rwc.get s.currentThread)

/-- DestIncr is a signed addend (R138): with Clear, CToCR and CR all 0 the two's-complement reading is what is added. -/
def Obligations.DestIncrIsSigned : Prop :=
  ∀ (i : Instr) (am : Nat) (upd : Bool) (s : State) (index : Nat),
    addrModeUse i = some (am, upd) → SelectsSection s am index →
      (s.cfg16 s.currentThread (28 + index)).toNat / 2 ^ 10 % 8 = 0 →
        ∃ s', exec i s = .next s' ∧
          let incr : Int := ((s.cfg16 s.currentThread (28 + index)).toNat % 1024 : Nat)
          ((s'.rwc.get s.currentThread).dst.toNat : Int)
            = ((s.rwc.get s.currentThread).dst.toNat + (if incr < 512 then incr else incr - 1024)) % 1024

/-- A consumer with addr_mode 4..7 while the upper bank is selected is refused: the spec's decision D9 (R131; log 13). -/
def Obligations.UpperBankAddrModeRefused : Prop :=
  ∀ (i : Instr) (am : Nat) (upd : Bool) (s : State),
    addrModeUse i = some (am, upd) → UpperSelected s → 4 ≤ am → am < 8 →
      exec i s = .refused .addrModeInUpperBank

/-- R139: a consumer of the partial form leaves the RWC record that one of the full form with the same addr_mode leaves, but for
FidelityPhase, which it does not touch. -/
def Obligations.PartialFormSkipsFidelityOnly : Prop :=
  ∀ (i j : Instr) (am : Nat) (s s₁ : State),
    addrModeUse i = some (am, false) → addrModeUse j = some (am, true) → exec i s = .next s₁ →
      ∃ s₂, exec j s = .next s₂ ∧
        s₁.rwc.get s.currentThread
          = { s₂.rwc.get s.currentThread with fidelityPhase := (s.rwc.get s.currentThread).fidelityPhase }

/-- ExtraAddrModBit reaches a defined value from any value when both sections that an addr_mode can select clear it (R222, first way). -/
def Obligations.BothBanksClearingDefinesExtraBit : Prop :=
  ∀ (i : Instr) (am : Nat) (upd : Bool) (s : State),
    addrModeUse i = some (am, upd) → am < 4 →
      s.cfg16 s.currentThread (47 + am) = 0x0010#16 → s.cfg16 s.currentThread (47 + (am + 4)) = 0x0010#16 →
        ∃ s', exec i s = .next s' ∧ (s'.rwc.get s.currentThread).extraAddrModBit = 0#1

/-- The rows of MVMUL (R91); that a block past row 63 has no defined rows while the instruction goes on is the spec's decision D19
(log 21), that clear_dvalid is recorded as an effect is the model's (log 16). Each of the 8 rows of Dst is written, with a free value
(log 23); the premise there is a clause of `State.Inv`. -/
def Obligations.MvmulRows : Prop :=
  ∀ (clearDvalid : BitVec 2) (instrMod19 : BitVec 3) (addrMode : BitVec 5) (dst : BitVec 14) (s : State) (index : Nat),
    SelectsSection s addrMode.toNat index →
      ∃ s', exec (.mvmul clearDvalid instrMod19 addrMode dst) s = .next s' ∧
        let t := s.currentThread
        let r := s.rwc.get t
        let base := s.config.destRegwBase + (s.threadConfig.get t).mathOffset
        let rowA := r.srcA.toNat / 8 * 8
        let rowD := (r.dst.toNat + base + dst.toNat) % 1024 / 8 * 8
        s'.effects = s.effects ++
          ⟨t, .matrixRows (if rowA = 56 then .noDefinedRows else .block rowA 16) (.block (r.srcB.toNat / 8 * 8) 8) (.block rowD 8)⟩
          :: (if clearDvalid = 0 then [] else [⟨t, .clearDvalid clearDvalid⟩])
        ∧ (Cells.wf s.dst = true →
            ∀ a, rowD * 16 ≤ a → a < (rowD + 8) * 16 → s'.dst.read a = Config.freeDst s.freeIndex a)

/-- The rows of ELWADD (R93); the addends of the Dst sum are the spec's decision D20 and the rows of a broadcast beyond the first
are left open (log 22), rows past 63 are not defined by D19 (log 21), clear_dvalid is recorded as an effect (log 16). Each of the
8 rows of Dst is written, with a free value (log 23); the premise there is a clause of `State.Inv`. -/
def Obligations.ElwaddRows : Prop :=
  ∀ (clearDvalid : BitVec 2) (destAccumEn : BitVec 1) (broadcast : Bool) (broadcastCol : BitVec 1) (addrMode : BitVec 5)
    (dst : BitVec 14) (s : State) (index : Nat),
    SelectsSection s addrMode.toNat index →
      ∃ s', exec (.elwadd clearDvalid destAccumEn broadcast broadcastCol addrMode dst) s = .next s' ∧
        let t := s.currentThread
        let r := s.rwc.get t
        let base := s.config.destRegwBase + (s.threadConfig.get t).mathOffset
        let rowD := (r.dst.toNat + base + dst.toNat) % 1024 / 8 * 8
        s'.effects = s.effects ++
          ⟨t, .matrixRows (.block (r.srcA.toNat / 8 * 8) 8)
            (if broadcast = true then
              (if 56 < r.srcB.toNat then .noDefinedRows else .startingAt r.srcB.toNat)
            else .block (r.srcB.toNat / 8 * 8) 8)
            (.block rowD 8)⟩
          :: (if clearDvalid = 0 then [] else [⟨t, .clearDvalid clearDvalid⟩])
        ∧ (Cells.wf s.dst = true →
            ∀ a, rowD * 16 ≤ a → a < (rowD + 8) * 16 → s'.dst.read a = Config.freeDst s.freeIndex a)

/-- The cells that SFPLOAD reads, lane by lane, and the elements found there (R95, R98); the event that lists them is the model's
(log 32). -/
def Obligations.SfploadReadsItsLaneCells : Prop :=
  ∀ (lregInd instrMod0 : BitVec 4) (addrMode : BitVec 3) (imm10 : BitVec 10) (s : State) (index : Nat),
    SelectsSection s addrMode.toNat index →
      ∃ s' cells elements, exec (.sfpload lregInd instrMod0 addrMode imm10) s = .next s' ∧
        s'.effects = s.effects ++ [⟨s.currentThread, .laneLoads cells elements⟩] ∧ cells.length = 32 ∧
        let base := s.config.destRegwBase + (s.threadConfig.get s.currentThread).mathOffset
        let addr := (imm10.toNat + base + (s.rwc.get s.currentThread).dst.toNat) % 1024
        ∀ lane, lane < 32 → ∃ cell, cells[lane]? = some cell
          ∧ cell.row.toNat = addr / 4 * 4 + lane / 8
          ∧ cell.column.toNat = lane % 8 * 2 + (if addr / 2 % 2 = 1 ∨ s.addrBit1Exchange = true then 1 else 0)
          ∧ elements[lane]? = some (s.dst.read (cell.row.toNat * 16 + cell.column.toNat))

/-- The cells that SFPSTORE writes, lane by lane (R96, R98), each with a free value (log 23); the premise there is a clause of
`State.Inv`. The event that lists them is the model's (log 32). -/
def Obligations.SfpstoreWritesItsLaneCells : Prop :=
  ∀ (lregInd instrMod0 : BitVec 4) (addrMode : BitVec 3) (imm10 : BitVec 10) (s : State) (index : Nat),
    SelectsSection s addrMode.toNat index →
      ∃ s' cells, exec (.sfpstore lregInd instrMod0 addrMode imm10) s = .next s' ∧
        s'.effects = s.effects ++ [⟨s.currentThread, .laneStores cells⟩] ∧ cells.length = 32 ∧
        let base := s.config.destRegwBase + (s.threadConfig.get s.currentThread).mathOffset
        let addr := (imm10.toNat + base + (s.rwc.get s.currentThread).dst.toNat) % 1024
        ∀ lane, lane < 32 → ∃ cell, cells[lane]? = some cell
          ∧ cell.row.toNat = addr / 4 * 4 + lane / 8
          ∧ cell.column.toNat = lane % 8 * 2 + (if addr / 2 % 2 = 1 ∨ s.addrBit1Exchange = true then 1 else 0)
          ∧ (Cells.wf s.dst = true →
              s'.dst.read (cell.row.toNat * 16 + cell.column.toNat)
                = Config.freeDst s.freeIndex (cell.row.toNat * 16 + cell.column.toNat))

/-- R98: the lane map itself. -/
def Obligations.LaneMapRowsAndColumns : Prop :=
  ∀ (addr : BitVec 10) (exchange : Bool) (lane : Nat), lane < 32 →
    (laneMap addr exchange lane).row.toNat = addr.toNat / 4 * 4 + lane / 8
      ∧ (laneMap addr exchange lane).column.toNat
        = lane % 8 * 2 + (if addr.toNat / 2 % 2 = 1 ∨ exchange = true then 1 else 0)

/-- The frame of MVMUL and ELWADD: the issuing thread's RWC record, the recorded effects and the Dst elements of the 8 rows from
`matrixDstRow` on may change (and the model's own draw index, log 34); nothing else does. For ELWADD that row rests on the spec's
decision D20 (log 22). -/
def Obligations.MatrixInstructionsFrame : Prop :=
  ∀ (i : Instr) (dst : BitVec 14) (s s' : State),
    ((∃ clearDvalid instrMod19 addrMode, i = .mvmul clearDvalid instrMod19 addrMode dst)
      ∨ (∃ clearDvalid destAccumEn broadcast broadcastCol addrMode,
          i = .elwadd clearDvalid destAccumEn broadcast broadcastCol addrMode dst)) →
    exec i s = .next s' →
      s' = { s with rwc := s'.rwc, dst := s'.dst, effects := s'.effects, freeIndex := s'.freeIndex }
        ∧ (∀ u, u ≠ s.currentThread → s'.rwc.get u = s.rwc.get u)
        ∧ (∀ a, (a < (s.matrixDstRow dst).toNat * 16 ∨ (s.matrixDstRow dst).toNat * 16 + 128 ≤ a) → s'.dst.read a = s.dst.read a)
        ∧ ∀ a, Memory.read s'.l1 a = Memory.read s.l1 a

/-- The frame of SFPLOAD and SFPSTORE: the issuing thread's RWC record and the recorded effects may change, and for SFPSTORE the Dst
elements of the 32 lane cells (and the model's own draw index, log 34); nothing else does, and FidelityPhase does not. -/
def Obligations.SfpInstructionsFrame : Prop :=
  (∀ (lregInd instrMod0 : BitVec 4) (addrMode : BitVec 3) (imm10 : BitVec 10) (s s' : State),
    exec (.sfpload lregInd instrMod0 addrMode imm10) s = .next s' →
      s' = { s with rwc := s'.rwc, effects := s'.effects }
        ∧ (∀ u, u ≠ s.currentThread → s'.rwc.get u = s.rwc.get u)
        ∧ (s'.rwc.get s.currentThread).fidelityPhase = (s.rwc.get s.currentThread).fidelityPhase
        ∧ (∀ a, s'.dst.read a = s.dst.read a)
        ∧ ∀ a, Memory.read s'.l1 a = Memory.read s.l1 a)
  ∧ (∀ (lregInd instrMod0 : BitVec 4) (addrMode : BitVec 3) (imm10 : BitVec 10) (s s' : State),
    exec (.sfpstore lregInd instrMod0 addrMode imm10) s = .next s' →
      s' = { s with rwc := s'.rwc, dst := s'.dst, effects := s'.effects, freeIndex := s'.freeIndex }
        ∧ (∀ u, u ≠ s.currentThread → s'.rwc.get u = s.rwc.get u)
        ∧ (s'.rwc.get s.currentThread).fidelityPhase = (s.rwc.get s.currentThread).fidelityPhase
        ∧ (∀ a, (∀ lane, lane < 32 → a ≠ (laneMap (s.sfpAddr imm10) s.addrBit1Exchange lane).number) → s'.dst.read a = s.dst.read a)
        ∧ ∀ a, Memory.read s'.l1 a = Memory.read s.l1 a)

/-- A checkpoint forms no address (R11): other checkpoint values give the same effects and the same Dst. -/
def Obligations.CheckpointsFormNoAddress : Prop :=
  ∀ (i : Instr) (s s₁ : State) (aCr bCr : BitVec 6) (dCr : BitVec 10),
    exec i s = .next s₁ →
      ∃ s₂, exec i (s.setRwc { s.rwc.get s.currentThread with srcACr := aCr, srcBCr := bCr, dstCr := dCr }) = .next s₂
        ∧ s₂.effects = s₁.effects ∧ s₂.dst = s₁.dst

/-- SETADC sets one counter and its checkpoint in the selected units of the selected thread and no other (R162). The value and the
thread that a ThreadOverride selects are the spec's decision D15 (log 18), the truncation is D16 (log 19), the mask D18 (log 20). -/
def Obligations.SetadcSetsOneCounter : Prop :=
  ∀ (cntSetMask : BitVec 3) (channel : Channel) (xyzw : Dim) (newValue : BitVec 18) (s : State),
    ∃ s', exec (.setadc cntSetMask channel xyzw newValue) s = .next s' ∧
      let threadOverride := newValue.toNat / 2 ^ 16
      let value := newValue.toNat % 2 ^ 16
      ∀ (t : ThreadId) (k : Fin 3) (c : Channel) (d : Dim),
        if (if threadOverride = 0 then t = s.currentThread else threadNumber t = threadOverride - 1)
            ∧ MaskBit cntSetMask k ∧ c = channel ∧ d = xyzw then
          CounterSet ((s'.adc.get t).unit k) c d (value % 2 ^ dimWidth d)
        else CounterKept ((s.adc.get t).unit k) ((s'.adc.get t).unit k) c d

/-- SETADCXY in the issuing thread's selected units (R163). That the checkpoints are written is the spec's decision D14 (log 17),
the mask D18 (log 20). -/
def Obligations.SetadcxySetsMaskedCounters : Prop :=
  ∀ (cntSetMask y1Val x1Val y0Val x0Val : BitVec 3) (bitMask : BitVec 4) (s : State),
    ∃ s', exec (.setadcxy cntSetMask y1Val x1Val y0Val x0Val bitMask) s = .next s' ∧
      ∀ k : Fin 3,
        let u := (s.adc.get s.currentThread).unit k
        let u' := (s'.adc.get s.currentThread).unit k
        if MaskBit cntSetMask k then
          (if MaskBit bitMask 0 then CounterSet u' .ch0 .x x0Val.toNat else CounterKept u u' .ch0 .x)
          ∧ (if MaskBit bitMask 1 then CounterSet u' .ch0 .y y0Val.toNat else CounterKept u u' .ch0 .y)
          ∧ (if MaskBit bitMask 2 then CounterSet u' .ch1 .x x1Val.toNat else CounterKept u u' .ch1 .x)
          ∧ (if MaskBit bitMask 3 then CounterSet u' .ch1 .y y1Val.toNat else CounterKept u u' .ch1 .y)
          ∧ ∀ c, CounterKept u u' c .z ∧ CounterKept u u' c .w
        else u' = u

/-- SETADCZW in the issuing thread's selected units (R164). The widths are the spec's decision D17 (log 19), the checkpoints D14
(log 17), the mask D18 (log 20). -/
def Obligations.SetadczwSetsMaskedCounters : Prop :=
  ∀ (cntSetMask w1Val z1Val w0Val z0Val : BitVec 3) (bitMask : BitVec 4) (s : State),
    ∃ s', exec (.setadczw cntSetMask w1Val z1Val w0Val z0Val bitMask) s = .next s' ∧
      ∀ k : Fin 3,
        let u := (s.adc.get s.currentThread).unit k
        let u' := (s'.adc.get s.currentThread).unit k
        if MaskBit cntSetMask k then
          (if MaskBit bitMask 0 then CounterSet u' .ch0 .z z0Val.toNat else CounterKept u u' .ch0 .z)
          ∧ (if MaskBit bitMask 1 then CounterSet u' .ch0 .w w0Val.toNat else CounterKept u u' .ch0 .w)
          ∧ (if MaskBit bitMask 2 then CounterSet u' .ch1 .z z1Val.toNat else CounterKept u u' .ch1 .z)
          ∧ (if MaskBit bitMask 3 then CounterSet u' .ch1 .w w1Val.toNat else CounterKept u u' .ch1 .w)
          ∧ ∀ c, CounterKept u u' c .x ∧ CounterKept u u' c .y
        else u' = u

/-- SETADCXX sets both X counters of the units of the issuing thread that CntSetMask selects; Y, Z and W are unchanged (R165). The
mask is the spec's decision D18 (log 20). -/
def Obligations.SetadcxxSetsBothX : Prop :=
  ∀ (cntSetMask : BitVec 3) (x1Val x0Val : BitVec 10) (s : State),
    ∃ s', exec (.setadcxx cntSetMask x1Val x0Val) s = .next s' ∧
      ∀ k : Fin 3,
        let u := (s.adc.get s.currentThread).unit k
        let u' := (s'.adc.get s.currentThread).unit k
        if MaskBit cntSetMask k then
          CounterSet u' .ch0 .x x0Val.toNat ∧ CounterSet u' .ch1 .x x1Val.toNat
          ∧ ∀ c, CounterKept u u' c .y ∧ CounterKept u u' c .z ∧ CounterKept u u' c .w
        else u' = u

/-- INCADCXY adds to X and Y of both channels of the selected units and leaves every checkpoint (R166). That the sums wrap at the
counter's width is the spec's decision D16 (log 19), the mask D18 (log 20). -/
def Obligations.IncadcxyAddsToXAndY : Prop :=
  ∀ (cntSetMask y1Inc x1Inc y0Inc x0Inc : BitVec 3) (s : State),
    ∃ s', exec (.incadcxy cntSetMask y1Inc x1Inc y0Inc x0Inc) s = .next s' ∧
      ∀ k : Fin 3,
        let u := (s.adc.get s.currentThread).unit k
        let u' := (s'.adc.get s.currentThread).unit k
        if MaskBit cntSetMask k then
          CounterAdded u u' .ch0 .x x0Inc.toNat ∧ CounterAdded u u' .ch0 .y y0Inc.toNat
          ∧ CounterAdded u u' .ch1 .x x1Inc.toNat ∧ CounterAdded u u' .ch1 .y y1Inc.toNat
          ∧ ∀ c, CounterKept u u' c .z ∧ CounterKept u u' c .w
        else u' = u

/-- INCADCZW adds to Z and W of both channels of the selected units and leaves every checkpoint (R167). Widths and untouched
checkpoints are the spec's decision D17, the wrap D16 (log 19), the mask D18 (log 20). -/
def Obligations.IncadczwAddsToZAndW : Prop :=
  ∀ (cntSetMask w1Inc z1Inc w0Inc z0Inc : BitVec 3) (s : State),
    ∃ s', exec (.incadczw cntSetMask w1Inc z1Inc w0Inc z0Inc) s = .next s' ∧
      ∀ k : Fin 3,
        let u := (s.adc.get s.currentThread).unit k
        let u' := (s'.adc.get s.currentThread).unit k
        if MaskBit cntSetMask k then
          CounterAdded u u' .ch0 .z z0Inc.toNat ∧ CounterAdded u u' .ch0 .w w0Inc.toNat
          ∧ CounterAdded u u' .ch1 .z z1Inc.toNat ∧ CounterAdded u u' .ch1 .w w1Inc.toNat
          ∧ ∀ c, CounterKept u u' c .x ∧ CounterKept u u' c .y
        else u' = u

/-- The frame of the six ADC instructions (R161, R177): they complete, and nothing but the ADC record of the target thread changes.
Which thread a SETADC with a ThreadOverride targets is the spec's decision D15 and its general knowledge G8 (log 18). -/
def Obligations.AdcInstructionsFrame : Prop :=
  ∀ (i : Instr) (s : State) (t : ThreadId), adcTarget s.currentThread i = some t →
    ∃ s', exec i s = .next s' ∧ s' = { s with adc := s'.adc } ∧ (∀ u, u ≠ t → s'.adc.get u = s.adc.get u)
      ∧ ∀ a, Memory.read s'.l1 a = Memory.read s.l1 a

/-- An ADC instruction with an empty CntSetMask changes nothing: the spec's decision D18 (R160; log 20). -/
def Obligations.EmptyCntSetMaskIsNoOp : Prop :=
  ∀ (s : State) (c : Channel) (d : Dim) (v : BitVec 18) (m : BitVec 4) (p q : BitVec 10) (e f g h : BitVec 3),
    exec (.setadc 0 c d v) s = .next s
      ∧ exec (.setadcxy 0 e f g h m) s = .next s
      ∧ exec (.setadczw 0 e f g h m) s = .next s
      ∧ exec (.setadcxx 0 p q) s = .next s
      ∧ exec (.incadcxy 0 e f g h) s = .next s
      ∧ exec (.incadczw 0 e f g h) s = .next s

/-- SETC16, the abstract step of R209, writes its word and no other (U15, log 11; width of the index: log 36). The premise is a clause
of `State.Inv`. -/
def Obligations.Setc16WritesItsWord : Prop :=
  ∀ (addr32 : BitVec 8) (value : CfgWord) (s : State),
    Cells.wf (s.threadConfig.get s.currentThread).words = true →
      ∃ s', exec (.setc16 addr32 value) s = .next s'
        ∧ s'.cfg16 s.currentThread addr32.toNat = value
        ∧ (∀ a, a ≠ addr32.toNat → s'.cfg16 s.currentThread a = s.cfg16 s.currentThread a)
        ∧ ∀ u, u ≠ s.currentThread → s'.threadConfig.get u = s.threadConfig.get u

/-- The frame of SETC16: at an index of R14 only the word changes; at any other index `ADDR_MOD_SET_Base` and
`DEST_TARGET_REG_CFG_MATH_Offset` of the thread may change too, and the model's own draw index of the thread (logs 26, 34). -/
def Obligations.Setc16Frame : Prop :=
  ∀ (addr32 : BitVec 8) (value : CfgWord) (s s' : State), exec (.setc16 addr32 value) s = .next s' →
    let a := addr32.toNat
    let c := s.threadConfig.get s.currentThread
    let c' := s'.threadConfig.get s.currentThread
    s' = { s with threadConfig := s'.threadConfig, configIndex := s'.configIndex }
      ∧ (∀ u, u ≠ s.currentThread → s'.threadConfig.get u = s.threadConfig.get u ∧ s'.configIndex.get u = s.configIndex.get u)
      ∧ ((12 ≤ a ∧ a ≤ 19) ∨ (28 ≤ a ∧ a ≤ 35) ∨ (37 ≤ a ∧ a ≤ 40) ∨ (47 ≤ a ∧ a ≤ 54) →
          c' = { c with words := c'.words } ∧ s'.configIndex = s.configIndex)
      ∧ ∀ b, Memory.read s'.l1 b = Memory.read s.l1 b

/-- A configuration write is visible to the next consumer of the same thread, for the AB, the DST and the BIAS word: the spec's
decision D23 (R49, R230; log 4). The wrap of a bias step is D10 (log 14). The premise on the words is a clause of `State.Inv`. -/
def Obligations.Setc16IsVisibleToTheNextConsumer : Prop :=
  ∀ (i : Instr) (am : Nat) (upd : Bool) (s : State) (index : Nat) (value : CfgWord),
    Cells.wf (s.threadConfig.get s.currentThread).words = true →
      addrModeUse i = some (am, upd) → SelectsSection s am index →
        let r := s.rwc.get s.currentThread
        (∃ s₁ s₂, exec (.setc16 (BitVec.ofNat 8 (12 + index)) value) s = .next s₁ ∧ exec i s₁ = .next s₂
          ∧ SrcAUpdated value.toNat r (s₂.rwc.get s.currentThread) ∧ SrcBUpdated value.toNat r (s₂.rwc.get s.currentThread))
        ∧ (∃ s₁ s₂, exec (.setc16 (BitVec.ofNat 8 (28 + index)) value) s = .next s₁ ∧ exec i s₁ = .next s₂
          ∧ DstUpdated value.toNat r (s₂.rwc.get s.currentThread) ∧ FidelityUpdated upd value.toNat r (s₂.rwc.get s.currentThread))
        ∧ ∃ s₁ s₂, exec (.setc16 (BitVec.ofNat 8 (47 + index)) value) s = .next s₁ ∧ exec i s₁ = .next s₂
          ∧ ExtraBitUpdated value.toNat r (s₂.rwc.get s.currentThread)

/-- The datum count where the spec computes it (R168, U7); that it is a number without a width is the model's choice (log 28). -/
def Obligations.DatumCountOfOrderedCounters : Prop :=
  ∀ u : AdcUnit, u.channel0.x.toNat ≤ u.channel1.x.toNat →
    (u.datumCount : Int) = (u.channel1.x.toNat : Int) - u.channel0.x.toNat + 1

/-- The packer Dst input address, first stage, with Channel[0] of the Packers unit (R173). -/
def Obligations.PackerDstAddressIsTheWeightedSum : Prop :=
  ∀ (s : State) (t : ThreadId),
    let c := ((s.adc.get t).unit 2).channel .ch0
    (s.packerDstAddr t).toNat =
      (s.config.pck0BaseReg0 % 2 ^ 32 + c.counter .x * (s.config.pck0Xstride % 16) + c.counter .y * (s.config.pck0Ystride % 2 ^ 32)
        + c.counter .z * (s.config.pck0Zstride % 2 ^ 32) + c.counter .w * (s.config.pck0Wstride % 2 ^ 32)) % 2 ^ 32

/-- The packer Dst input address, second stage, for a mask of the low `n` bits, in 32 bits: the spec's decision D27 (R174; log 29). -/
def Obligations.PackerDatumIndexUnderALowMask : Prop :=
  ∀ (s : State) (t : ThreadId) (i : Fin 4) (n : Nat), n ≤ 32 → s.config.adcXMask = 2 ^ n - 1 → 0 < s.config.bytesPerDatum →
    let x := (((s.adc.get t).unit 2).channel .ch0).counter .x
    let datum := (s.packerDstAddr t).toNat / s.config.bytesPerDatum
    (s.packerDatumIndex t i).toNat = (datum / 2 ^ n * 2 ^ n + x % 2 ^ n + s.config.packSecOffset[i] * 2 ^ 4) % 2 ^ 32

/-- REPLAY, MOP, UNPACR and PACR are recognised only to be refused by name, and so is every SETC16 word (R78, U15; logs 11, 33; the
opcode byte of SETC16 is general knowledge, log 6). -/
def Obligations.NamedOnlyInstructionsStop : Prop :=
  (∀ (params : BitVec 24) (s : State),
    exec (.replay params) s = .refused .replayNotDescribed
      ∧ exec (.mop params) s = .refused .mopNotDescribed
      ∧ exec (.unpacr params) s = .refused .unpacrNotDescribed
      ∧ exec (.pacr params) s = .refused .pacrNotDescribed)
  ∧ ∀ w : Word, w.toNat / 2 ^ 24 = 0xb2 → decode w = .error .setc16Word

/-- A step runs the decoded instruction, or the SETC16 that stands in the sequence as an abstract step: the scheduled thread becomes
the current one, its position moves one further, the rest of the schedule remains, and the instruction is executed there (R21, R47,
R209; logs 1, 2, 11). -/
def Obligations.StepRunsTheDecodedInstruction : Prop :=
  ∀ (s : State) (t : ThreadId) (rest : List ThreadId) (e : SequenceEntry) (i : Instr),
    s.schedule = t :: rest → (s.sequences.get t).entries[(s.sequences.get t).position]? = some e →
      ((∃ w, e = .word w ∧ decode w = .ok i) ∨ (∃ addr32 value, e = .cfg16 addr32 value ∧ i = .setc16 addr32 value)) →
      step s = exec i { s with
        currentThread := t
        schedule := rest
        sequences := s.sequences.set t
          { entries := (s.sequences.get t).entries, position := (s.sequences.get t).position + 1 } }

/-- When a step stops before it executes: the schedule is at its end, the scheduled thread's sequence is at its end, or its word
decodes to nothing (R214, R75; logs 5, 12). -/
def Obligations.StepStopsWithoutAnInstruction : Prop :=
  ∀ s : State,
    (s.schedule = [] → step s = .fault .runEnded)
      ∧ (∀ t rest, s.schedule = t :: rest → (s.sequences.get t).entries.length ≤ (s.sequences.get t).position →
          step s = .fault (.sequenceEnded t))
      ∧ (∀ t rest w e, s.schedule = t :: rest → (s.sequences.get t).entries[(s.sequences.get t).position]? = some (.word w) →
          decode w = .error e → step s = .refused (.undecodable e))

/-- A completed step advances the position of the scheduled thread by one and changes no sequence otherwise (R21, D3, D22). The clauses
on the schedule, that its head becomes the current thread and its tail remains, speak of the model's own field, the interleaving as
data (log 2). -/
def Obligations.StepAdvancesTheIssuingThreadOnly : Prop :=
  ∀ s s' : State, step s = .next s' →
    ∃ t, s.schedule = t :: s'.schedule ∧ s'.currentThread = t
      ∧ s'.sequences.get t = { entries := (s.sequences.get t).entries, position := (s.sequences.get t).position + 1 }
      ∧ ∀ u, u ≠ t → s'.sequences.get u = s.sequences.get u

/-- Every step keeps the invariant: canonical files inside their address spaces, positions inside their sequences. -/
def Obligations.StepKeepsTheInvariant : Prop :=
  ∀ s s' : State, s.Inv → step s = .next s' → s'.Inv

/-- The invariant holds right after reset. -/
def Obligations.ResetMeetsTheInvariant : Prop := State.reset.Inv

/-- What reset leaves: the values are the model's choice, since the spec gives none (R30, R220, D4; log 3, log 2). -/
def Obligations.ResetLeavesZeroCounters : Prop :=
  (∀ t, State.reset.rwc.get t
      = { dst := 0, dstCr := 0, srcA := 0, srcACr := 0, srcB := 0, srcBCr := 0, fidelityPhase := 0, extraAddrModBit := 0 })
    ∧ (∀ (t : ThreadId) (k : Fin 3) (c : Channel) (d : Dim), CounterSet ((State.reset.adc.get t).unit k) c d 0)
    ∧ (∀ t a, State.reset.cfg16 t a = 0)
    ∧ (∀ t, (State.reset.sequences.get t).entries = [])
    ∧ State.reset.effects = []

/-- No step touches the RWC record of a thread other than the one that issues (R10, R207); which thread that is stands in the
schedule, the interleaving as data (log 2). -/
def Obligations.NoCrossThreadRwcAccess : Prop :=
  ∀ (s s' : State) (t u : ThreadId) (rest : List ThreadId),
    s.schedule = t :: rest → step s = .next s' → u ≠ t → s'.rwc.get u = s.rwc.get u

/-- What an instruction does to its thread's RWC record depends on nothing but that record, the thread's configuration words and
its ADDR_MOD_SET_Base: no other thread's state can show in it (R10, R132). -/
def Obligations.RwcResultDependsOnItsOwnThread : Prop :=
  ∀ (i : Instr) (s₁ s₂ s₁' : State),
    s₁.currentThread = s₂.currentThread →
      s₁.rwc.get s₁.currentThread = s₂.rwc.get s₁.currentThread →
      (s₁.threadConfig.get s₁.currentThread).words = (s₂.threadConfig.get s₁.currentThread).words →
      (s₁.threadConfig.get s₁.currentThread).addrModSetBase = (s₂.threadConfig.get s₁.currentThread).addrModSetBase →
      exec i s₁ = .next s₁' →
        ∃ s₂', exec i s₂ = .next s₂' ∧ s₂'.rwc.get s₁.currentThread = s₁'.rwc.get s₁.currentThread

/-- Instructions of two threads commute on the RWC state and on the configuration that it is computed from: either order completes if
the other does, and leaves the same records (R48). The draw indices of the configuration are the model's own (log 34). -/
def Obligations.ThreadsCommuteOnRwcState : Prop :=
  ∀ (i j : Instr) (t u : ThreadId) (s s₁ s₂ : State), t ≠ u →
    exec i (s.asThread t) = .next s₁ → exec j (s₁.asThread u) = .next s₂ →
      ∃ s₁' s₂', exec j (s.asThread u) = .next s₁' ∧ exec i (s₁'.asThread t) = .next s₂'
        ∧ ∀ v, s₂'.rwc.get v = s₂.rwc.get v ∧ s₂'.threadConfig.get v = s₂.threadConfig.get v
          ∧ s₂'.configIndex.get v = s₂.configIndex.get v

/-- Any two interleavings of the same turns give the same RWC records: a run of `order₁` that completes has a run of `order₂` that
completes with the same three records (R48; the interleaving as data is log 2). -/
def Obligations.InterleavingsLeaveTheSameRwcRecords : Prop :=
  ∀ (s s₁ : State) (order₁ order₂ : List ThreadId), order₁.Perm order₂ →
    Sys2Proof.core.run order₁.length { s with schedule := order₁ } = .next s₁ →
      ∃ s₂ : State, Sys2Proof.core.run order₂.length { s with schedule := order₂ } = .next s₂
        ∧ ∀ t, s₂.rwc.get t = s₁.rwc.get t

/-- The ADC records change by the six ADC instructions only, and only in the thread that the instruction targets (R31, R169). Which
thread a SETADC with a ThreadOverride targets is the spec's decision D15 and its general knowledge G8 (log 18). -/
def Obligations.OnlyAdcInstructionsWriteAdcs : Prop :=
  ∀ (i : Instr) (s s' : State) (t : ThreadId), exec i s = .next s' → s'.adc.get t ≠ s.adc.get t →
    adcTarget s.currentThread i = some t

/-- Who writes FidelityPhase and ExtraAddrModBit (R13): FidelityPhase changes only by a SETRWC, to 0, or by a consumer of the full
form; ExtraAddrModBit only by a consumer. -/
def Obligations.WritersOfFidelityAndExtraBit : Prop :=
  ∀ (i : Instr) (s s' : State) (t : ThreadId), exec i s = .next s' →
    ((s'.rwc.get t).fidelityPhase ≠ (s.rwc.get t).fidelityPhase →
      t = s.currentThread ∧
        ((∃ am, addrModeUse i = some (am, true))
          ∨ (∃ c cr d b a m, i = .setrwc c cr d b a m ∧ (s'.rwc.get t).fidelityPhase = 0)))
    ∧ ((s'.rwc.get t).extraAddrModBit ≠ (s.rwc.get t).extraAddrModBit →
      t = s.currentThread ∧ ∃ am upd, addrModeUse i = some (am, upd))

/-- The list of effects only grows, at its end and by effects of the issuing thread (R214, D25; log 32). -/
def Obligations.EffectsAreOnlyAppended : Prop :=
  ∀ (i : Instr) (s s' : State), exec i s = .next s' →
    ∃ es, s'.effects = s.effects ++ es ∧ ∀ e ∈ es, e.thread = s.currentThread

/-- No instruction changes L1, SrcA or SrcB (no rule writes them, R41; that the model holds them is log 23). The other two clauses are
the model's choice: that none changes ConfigState, for which R23 and R209 give no writer, is log 25, and that none changes
addr_bit1_exchange, whose setter is not in the source (N10, P4), is log 24. -/
def Obligations.MemoryAndSourceFilesAreUntouched : Prop :=
  ∀ (i : Instr) (s s' : State), exec i s = .next s' →
    (∀ a, Memory.read s'.l1 a = Memory.read s.l1 a)
      ∧ (∀ a, s'.srcA.read a = s.srcA.read a)
      ∧ (∀ a, s'.srcB.read a = s.srcB.read a)
      ∧ s'.config = s.config ∧ s'.addrBit1Exchange = s.addrBit1Exchange
end

