-- ==== Sys2Proof/Laws/Cells.lean ====
section
/-! SUPPORT. What the operations over sparse files do: a read after a write, and that every operation keeps the canonical form
and the address range. -/

namespace Sys2Proof.Machine

variable {w : Nat}

theorem Cells.wfFrom_mono {c : Cells w} {lo lo' : Nat} (h : Cells.wfFrom lo c = true) (hlo : lo' ≤ lo) :
    Cells.wfFrom lo' c = true := by
  cases c with
  | nil => rfl
  | cons cell rest =>
    simp only [Cells.wfFrom, Bool.and_eq_true, decide_eq_true_eq] at h ⊢
    exact ⟨⟨by omega, h.1.2⟩, h.2⟩

theorem Cells.read_below {c : Cells w} {lo a : Nat} (h : Cells.wfFrom lo c = true) (ha : a < lo) :
    Cells.read c a = Cells.unlisted := by
  induction c generalizing lo with
  | nil => rfl
  | cons cell rest ih =>
    simp only [Cells.wfFrom, Bool.and_eq_true, decide_eq_true_eq] at h
    rw [Cells.read, if_neg (by omega)]
    exact ih h.2 (by omega)

theorem Cells.read_entry_append (a b : Nat) (v : BitVec w) (c : Cells w) :
    Cells.read (Cells.entry a v ++ c) b = if v ≠ Cells.unlisted ∧ b = a then v else Cells.read c b := by
  unfold Cells.entry
  split <;> simp_all [Cells.read]

/-- A write leaves every other address alone. -/
theorem Cells.read_write_other {c : Cells w} {a b : Nat} (v : BitVec w) (h : b ≠ a) :
    Cells.read (Cells.write c a v) b = Cells.read c b := by
  induction c with
  | nil =>
    have := Cells.read_entry_append a b v []
    simp_all [Cells.write]
  | cons cell rest ih =>
    obtain ⟨k, x⟩ := cell
    rw [Cells.write]
    split
    · rw [Cells.read_entry_append, if_neg (by tauto)]
    · split
      · rw [Cells.read_entry_append, if_neg (by tauto), Cells.read, if_neg (by omega)]
      · rw [Cells.read, Cells.read, ih]

theorem Cells.read_write_same_from {c : Cells w} {lo a : Nat} (v : BitVec w) (h : Cells.wfFrom lo c = true) :
    Cells.read (Cells.write c a v) a = v := by
  induction c generalizing lo with
  | nil =>
    have := Cells.read_entry_append a a v []
    by_cases hv : v = Cells.unlisted <;> simp_all [Cells.write, Cells.read]
  | cons cell rest ih =>
    obtain ⟨k, x⟩ := cell
    have hrest := h
    simp only [Cells.wfFrom, Bool.and_eq_true, decide_eq_true_eq] at hrest
    rw [Cells.write]
    split
    · rename_i hak
      have hcons : Cells.wfFrom k ((k, x) :: rest) = true := by
        simp only [Cells.wfFrom, Bool.and_eq_true, decide_eq_true_eq]
        exact ⟨⟨le_refl k, hrest.1.2⟩, hrest.2⟩
      rw [Cells.read_entry_append, Cells.read_below hcons hak]
      by_cases hv : v = Cells.unlisted <;> simp [hv]
    · split
      · rw [Cells.read_entry_append, Cells.read_below hrest.2 (by omega)]
        by_cases hv : v = Cells.unlisted <;> simp [hv]
      · rw [Cells.read, if_neg (by assumption), ih hrest.2]

/-- A read after a write to the same address gives the value written. -/
theorem Cells.read_write_same {c : Cells w} {a : Nat} (v : BitVec w) (h : Cells.wf c = true) :
    Cells.read (Cells.write c a v) a = v := Cells.read_write_same_from v h

theorem Cells.wfFrom_entry_append {c : Cells w} {lo a : Nat} (v : BitVec w) (hlo : lo ≤ a)
    (h : Cells.wfFrom (a + 1) c = true) : Cells.wfFrom lo (Cells.entry a v ++ c) = true := by
  unfold Cells.entry
  split
  · exact Cells.wfFrom_mono h (by omega)
  · simp_all [Cells.wfFrom]

theorem Cells.wfFrom_write {c : Cells w} {lo a : Nat} (v : BitVec w) (h : Cells.wfFrom lo c = true) (hlo : lo ≤ a) :
    Cells.wfFrom lo (Cells.write c a v) = true := by
  induction c generalizing lo with
  | nil => simpa [Cells.write] using Cells.wfFrom_entry_append (c := []) v hlo rfl
  | cons cell rest ih =>
    obtain ⟨k, x⟩ := cell
    have hrest := h
    simp only [Cells.wfFrom, Bool.and_eq_true, decide_eq_true_eq] at hrest
    rw [Cells.write]
    split
    · apply Cells.wfFrom_entry_append v hlo
      simp only [Cells.wfFrom, Bool.and_eq_true, decide_eq_true_eq]
      exact ⟨⟨by omega, hrest.1.2⟩, hrest.2⟩
    · split
      · exact Cells.wfFrom_entry_append v hlo (by simp_all)
      · simp only [Cells.wfFrom, Bool.and_eq_true, decide_eq_true_eq]
        exact ⟨hrest.1, ih hrest.2 (by omega)⟩

/-- A write keeps the canonical form. -/
theorem Cells.wf_write {c : Cells w} (a : Nat) (v : BitVec w) (h : Cells.wf c = true) : Cells.wf (Cells.write c a v) = true :=
  Cells.wfFrom_write v h (Nat.zero_le a)

theorem Cells.within_iff {c : Cells w} {n : Nat} : Cells.within n c = true ↔ ∀ cell ∈ c, cell.1 < n := by
  rw [Cells.within, List.all_eq_true]
  exact forall₂_congr fun _ _ => decide_eq_true_iff

theorem Cells.mem_entry {a : Nat} {v : BitVec w} {cell : Nat × BitVec w} (h : cell ∈ Cells.entry a v) : cell = (a, v) := by
  unfold Cells.entry at h
  split at h
  · cases h
  · exact List.mem_singleton.mp h

/-- A cell of the file after a write is the one written or one that stood there. -/
theorem Cells.mem_write {c : Cells w} {a : Nat} {v : BitVec w} {cell : Nat × BitVec w} (h : cell ∈ Cells.write c a v) :
    cell = (a, v) ∨ cell ∈ c := by
  induction c with
  | nil => exact .inl (Cells.mem_entry h)
  | cons first rest ih =>
    obtain ⟨k, x⟩ := first
    rw [Cells.write] at h
    split at h
    · exact (List.mem_append.mp h).imp Cells.mem_entry id
    · split at h
      · exact (List.mem_append.mp h).imp Cells.mem_entry (List.mem_cons_of_mem _)
      · rcases List.mem_cons.mp h with h | h
        · exact .inr (h ▸ List.mem_cons_self)
        · exact (ih h).imp id (List.mem_cons_of_mem _)

/-- A write inside the address range keeps the range. -/
theorem Cells.within_write {c : Cells w} {n a : Nat} (v : BitVec w) (h : Cells.within n c = true) (ha : a < n) :
    Cells.within n (Cells.write c a v) = true := by
  rw [Cells.within_iff] at h ⊢
  intro cell hcell
  rcases Cells.mem_write hcell with rfl | hmem
  · exact ha
  · exact h cell hmem

theorem Cells.wf_writeAll (value : Nat → BitVec w) (cells : List Nat) {c : Cells w} (h : Cells.wf c = true) :
    Cells.wf (Cells.writeAll value cells c) = true := by
  induction cells generalizing c with
  | nil => exact h
  | cons a rest ih => exact ih (Cells.wf_write a _ h)

theorem Cells.within_writeAll (value : Nat → BitVec w) (cells : List Nat) {n : Nat} {c : Cells w}
    (h : Cells.within n c = true) (hcells : ∀ a ∈ cells, a < n) :
    Cells.within n (Cells.writeAll value cells c) = true := by
  induction cells generalizing c with
  | nil => exact h
  | cons a rest ih =>
    exact ih (Cells.within_write _ h (hcells a (by simp))) (fun b hb => hcells b (by simp [hb]))

/-- Writing a list of addresses leaves every other address alone. -/
theorem Cells.read_writeAll_other (value : Nat → BitVec w) (cells : List Nat) {c : Cells w} {b : Nat} (hb : b ∉ cells) :
    Cells.read (Cells.writeAll value cells c) b = Cells.read c b := by
  induction cells generalizing c with
  | nil => rfl
  | cons a rest ih =>
    simp only [List.mem_cons, not_or] at hb
    rw [Cells.writeAll, ih hb.2, Cells.read_write_other _ hb.1]

/-- Every address of the list holds its value afterwards. -/
theorem Cells.read_writeAll_mem (value : Nat → BitVec w) (cells : List Nat) {c : Cells w} {b : Nat} (h : Cells.wf c = true)
    (hb : b ∈ cells) : Cells.read (Cells.writeAll value cells c) b = value b := by
  induction cells generalizing c with
  | nil => cases hb
  | cons a rest ih =>
    by_cases hrest : b ∈ rest
    · exact ih (Cells.wf_write a _ h) hrest
    · obtain rfl : b = a := by simpa [hrest] using hb
      rw [Cells.writeAll, Cells.read_writeAll_other value rest hrest, Cells.read_write_same _ h]

/-- A memory write keeps the canonical form. -/
theorem Memory.wf_write {m : Memory} (a : Nat) (v : BitVec 8) (h : Memory.wf m = true) : Memory.wf (Memory.write m a v) = true :=
  Cells.wf_write a v h

theorem Memory.read_write_same {m : Memory} (a : Nat) (v : BitVec 8) (h : Memory.wf m = true) :
    Memory.read (Memory.write m a v) a = v := Cells.read_write_same v h

theorem Memory.read_write_other {m : Memory} {a b : Nat} (v : BitVec 8) (h : b ≠ a) :
    Memory.read (Memory.write m a v) b = Memory.read m b := Cells.read_write_other v h

/-- L1 is in canonical form after reset. -/
theorem Memory.wf_reset : Memory.wf State.reset.l1 = true := rfl

end Sys2Proof.Machine
end

