-- ==== Sys2Proof/Laws/State.lean ====
section
/-! SUPPORT. The small lemmas of the state's updates: one for each field of each update, and the laws of the per-thread records. -/

namespace Sys2Proof.Machine

section PerThread

variable {α : Type} (p : PerThread α) (t u : ThreadId) (a b : α)

@[simp] theorem PerThread.get_set_same : (p.set t a).get t = a := by cases t <;> rfl

theorem PerThread.get_set_other {t u : ThreadId} (h : u ≠ t) : (p.set t a).get u = p.get u := by
  cases t <;> cases u <;> first | rfl | exact absurd rfl h

theorem PerThread.get_set : (p.set t a).get u = if u = t then a else p.get u := by
  cases t <;> cases u <;> rfl

@[simp] theorem PerThread.set_set : (p.set t a).set t b = p.set t b := by cases t <;> rfl

@[simp] theorem PerThread.set_get : p.set t (p.get t) = p := by cases t <;> rfl

@[simp] theorem PerThread.get_all : (PerThread.all a).get t = a := by cases t <;> rfl

theorem PerThread.ext_get {p q : PerThread α} (h : ∀ t, p.get t = q.get t) : p = q := by
  cases p
  cases q
  have h0 := h .t0
  have h1 := h .t1
  have h2 := h .t2
  simp_all [PerThread.get]

end PerThread

@[simp] theorem SequenceEntry.instr_word (w : Word) : (SequenceEntry.word w).instr = decode w := rfl

@[simp] theorem SequenceEntry.instr_cfg16 (addr32 : BitVec 8) (value : CfgWord) :
    (SequenceEntry.cfg16 addr32 value).instr = .ok (.setc16 addr32 value) := rfl

section Updates

variable (s : State)

@[simp] theorem State.setRwc_rwc (r : Rwc) : (s.setRwc r).rwc = s.rwc.set s.currentThread r := rfl

@[simp] theorem State.setRwc_adc (r : Rwc) : (s.setRwc r).adc = s.adc := rfl

@[simp] theorem State.setRwc_threadConfig (r : Rwc) : (s.setRwc r).threadConfig = s.threadConfig := rfl

@[simp] theorem State.setRwc_config (r : Rwc) : (s.setRwc r).config = s.config := rfl

@[simp] theorem State.setRwc_addrBit1Exchange (r : Rwc) : (s.setRwc r).addrBit1Exchange = s.addrBit1Exchange := rfl

@[simp] theorem State.setRwc_srcA (r : Rwc) : (s.setRwc r).srcA = s.srcA := rfl

@[simp] theorem State.setRwc_srcB (r : Rwc) : (s.setRwc r).srcB = s.srcB := rfl

@[simp] theorem State.setRwc_dst (r : Rwc) : (s.setRwc r).dst = s.dst := rfl

@[simp] theorem State.setRwc_l1 (r : Rwc) : (s.setRwc r).l1 = s.l1 := rfl

@[simp] theorem State.setRwc_sequences (r : Rwc) : (s.setRwc r).sequences = s.sequences := rfl

@[simp] theorem State.setRwc_currentThread (r : Rwc) : (s.setRwc r).currentThread = s.currentThread := rfl

@[simp] theorem State.setRwc_schedule (r : Rwc) : (s.setRwc r).schedule = s.schedule := rfl

@[simp] theorem State.setRwc_effects (r : Rwc) : (s.setRwc r).effects = s.effects := rfl

@[simp] theorem State.setRwc_freeIndex (r : Rwc) : (s.setRwc r).freeIndex = s.freeIndex := rfl

@[simp] theorem State.setRwc_configIndex (r : Rwc) : (s.setRwc r).configIndex = s.configIndex := rfl

@[simp] theorem State.updateAdc_rwc (t : ThreadId) (f : Adc → Adc) : (s.updateAdc t f).rwc = s.rwc := rfl

@[simp] theorem State.updateAdc_adc (t : ThreadId) (f : Adc → Adc) : (s.updateAdc t f).adc = s.adc.set t (f (s.adc.get t)) := rfl

@[simp] theorem State.updateAdc_threadConfig (t : ThreadId) (f : Adc → Adc) : (s.updateAdc t f).threadConfig = s.threadConfig := rfl

@[simp] theorem State.updateAdc_config (t : ThreadId) (f : Adc → Adc) : (s.updateAdc t f).config = s.config := rfl

@[simp] theorem State.updateAdc_addrBit1Exchange (t : ThreadId) (f : Adc → Adc) : (s.updateAdc t f).addrBit1Exchange = s.addrBit1Exchange := rfl

@[simp] theorem State.updateAdc_srcA (t : ThreadId) (f : Adc → Adc) : (s.updateAdc t f).srcA = s.srcA := rfl

@[simp] theorem State.updateAdc_srcB (t : ThreadId) (f : Adc → Adc) : (s.updateAdc t f).srcB = s.srcB := rfl

@[simp] theorem State.updateAdc_dst (t : ThreadId) (f : Adc → Adc) : (s.updateAdc t f).dst = s.dst := rfl

@[simp] theorem State.updateAdc_l1 (t : ThreadId) (f : Adc → Adc) : (s.updateAdc t f).l1 = s.l1 := rfl

@[simp] theorem State.updateAdc_sequences (t : ThreadId) (f : Adc → Adc) : (s.updateAdc t f).sequences = s.sequences := rfl

@[simp] theorem State.updateAdc_currentThread (t : ThreadId) (f : Adc → Adc) : (s.updateAdc t f).currentThread = s.currentThread := rfl

@[simp] theorem State.updateAdc_schedule (t : ThreadId) (f : Adc → Adc) : (s.updateAdc t f).schedule = s.schedule := rfl

@[simp] theorem State.updateAdc_effects (t : ThreadId) (f : Adc → Adc) : (s.updateAdc t f).effects = s.effects := rfl

@[simp] theorem State.updateAdc_freeIndex (t : ThreadId) (f : Adc → Adc) : (s.updateAdc t f).freeIndex = s.freeIndex := rfl

@[simp] theorem State.updateAdc_configIndex (t : ThreadId) (f : Adc → Adc) : (s.updateAdc t f).configIndex = s.configIndex := rfl

@[simp] theorem State.emit_rwc (es : List Effect) : (s.emit es).rwc = s.rwc := rfl

@[simp] theorem State.emit_adc (es : List Effect) : (s.emit es).adc = s.adc := rfl

@[simp] theorem State.emit_threadConfig (es : List Effect) : (s.emit es).threadConfig = s.threadConfig := rfl

@[simp] theorem State.emit_config (es : List Effect) : (s.emit es).config = s.config := rfl

@[simp] theorem State.emit_addrBit1Exchange (es : List Effect) : (s.emit es).addrBit1Exchange = s.addrBit1Exchange := rfl

@[simp] theorem State.emit_srcA (es : List Effect) : (s.emit es).srcA = s.srcA := rfl

@[simp] theorem State.emit_srcB (es : List Effect) : (s.emit es).srcB = s.srcB := rfl

@[simp] theorem State.emit_dst (es : List Effect) : (s.emit es).dst = s.dst := rfl

@[simp] theorem State.emit_l1 (es : List Effect) : (s.emit es).l1 = s.l1 := rfl

@[simp] theorem State.emit_sequences (es : List Effect) : (s.emit es).sequences = s.sequences := rfl

@[simp] theorem State.emit_currentThread (es : List Effect) : (s.emit es).currentThread = s.currentThread := rfl

@[simp] theorem State.emit_schedule (es : List Effect) : (s.emit es).schedule = s.schedule := rfl

@[simp] theorem State.emit_effects (es : List Effect) : (s.emit es).effects = s.effects ++ es.map (fun e => { thread := s.currentThread, effect := e }) := rfl

@[simp] theorem State.emit_freeIndex (es : List Effect) : (s.emit es).freeIndex = s.freeIndex := rfl

@[simp] theorem State.emit_configIndex (es : List Effect) : (s.emit es).configIndex = s.configIndex := rfl

@[simp] theorem State.writeFreeDst_rwc (cells : List Nat) : (s.writeFreeDst cells).rwc = s.rwc := rfl

@[simp] theorem State.writeFreeDst_adc (cells : List Nat) : (s.writeFreeDst cells).adc = s.adc := rfl

@[simp] theorem State.writeFreeDst_threadConfig (cells : List Nat) : (s.writeFreeDst cells).threadConfig = s.threadConfig := rfl

@[simp] theorem State.writeFreeDst_config (cells : List Nat) : (s.writeFreeDst cells).config = s.config := rfl

@[simp] theorem State.writeFreeDst_addrBit1Exchange (cells : List Nat) : (s.writeFreeDst cells).addrBit1Exchange = s.addrBit1Exchange := rfl

@[simp] theorem State.writeFreeDst_srcA (cells : List Nat) : (s.writeFreeDst cells).srcA = s.srcA := rfl

@[simp] theorem State.writeFreeDst_srcB (cells : List Nat) : (s.writeFreeDst cells).srcB = s.srcB := rfl

@[simp] theorem State.writeFreeDst_dst (cells : List Nat) : (s.writeFreeDst cells).dst = Cells.writeAll (Config.freeDst s.freeIndex) cells s.dst := rfl

@[simp] theorem State.writeFreeDst_l1 (cells : List Nat) : (s.writeFreeDst cells).l1 = s.l1 := rfl

@[simp] theorem State.writeFreeDst_sequences (cells : List Nat) : (s.writeFreeDst cells).sequences = s.sequences := rfl

@[simp] theorem State.writeFreeDst_currentThread (cells : List Nat) : (s.writeFreeDst cells).currentThread = s.currentThread := rfl

@[simp] theorem State.writeFreeDst_schedule (cells : List Nat) : (s.writeFreeDst cells).schedule = s.schedule := rfl

@[simp] theorem State.writeFreeDst_effects (cells : List Nat) : (s.writeFreeDst cells).effects = s.effects := rfl

@[simp] theorem State.writeFreeDst_freeIndex (cells : List Nat) : (s.writeFreeDst cells).freeIndex = s.freeIndex + 1 := rfl

@[simp] theorem State.writeFreeDst_configIndex (cells : List Nat) : (s.writeFreeDst cells).configIndex = s.configIndex := rfl

@[simp] theorem State.writeCfg16_rwc (a : Nat) (v : CfgWord) : (s.writeCfg16 a v).rwc = s.rwc := rfl

@[simp] theorem State.writeCfg16_adc (a : Nat) (v : CfgWord) : (s.writeCfg16 a v).adc = s.adc := rfl

@[simp] theorem State.writeCfg16_threadConfig (a : Nat) (v : CfgWord) : (s.writeCfg16 a v).threadConfig = s.threadConfig.set s.currentThread 
    (s.currentConfig.writeWord s.currentThread (s.configIndex.get s.currentThread) a v) := rfl

@[simp] theorem State.writeCfg16_config (a : Nat) (v : CfgWord) : (s.writeCfg16 a v).config = s.config := rfl

@[simp] theorem State.writeCfg16_addrBit1Exchange (a : Nat) (v : CfgWord) : (s.writeCfg16 a v).addrBit1Exchange = s.addrBit1Exchange := rfl

@[simp] theorem State.writeCfg16_srcA (a : Nat) (v : CfgWord) : (s.writeCfg16 a v).srcA = s.srcA := rfl

@[simp] theorem State.writeCfg16_srcB (a : Nat) (v : CfgWord) : (s.writeCfg16 a v).srcB = s.srcB := rfl

@[simp] theorem State.writeCfg16_dst (a : Nat) (v : CfgWord) : (s.writeCfg16 a v).dst = s.dst := rfl

@[simp] theorem State.writeCfg16_l1 (a : Nat) (v : CfgWord) : (s.writeCfg16 a v).l1 = s.l1 := rfl

@[simp] theorem State.writeCfg16_sequences (a : Nat) (v : CfgWord) : (s.writeCfg16 a v).sequences = s.sequences := rfl

@[simp] theorem State.writeCfg16_currentThread (a : Nat) (v : CfgWord) : (s.writeCfg16 a v).currentThread = s.currentThread := rfl

@[simp] theorem State.writeCfg16_schedule (a : Nat) (v : CfgWord) : (s.writeCfg16 a v).schedule = s.schedule := rfl

@[simp] theorem State.writeCfg16_effects (a : Nat) (v : CfgWord) : (s.writeCfg16 a v).effects = s.effects := rfl

@[simp] theorem State.writeCfg16_freeIndex (a : Nat) (v : CfgWord) : (s.writeCfg16 a v).freeIndex = s.freeIndex := rfl

@[simp] theorem State.writeCfg16_configIndex (a : Nat) (v : CfgWord) :
    (s.writeCfg16 a v).configIndex = if addr32Listed a then s.configIndex
      else s.configIndex.set s.currentThread (s.configIndex.get s.currentThread + 1) := rfl

@[simp] theorem State.issue_rwc (t : ThreadId) (rest : List ThreadId) : (s.issue t rest).rwc = s.rwc := rfl

@[simp] theorem State.issue_adc (t : ThreadId) (rest : List ThreadId) : (s.issue t rest).adc = s.adc := rfl

@[simp] theorem State.issue_threadConfig (t : ThreadId) (rest : List ThreadId) : (s.issue t rest).threadConfig = s.threadConfig := rfl

@[simp] theorem State.issue_config (t : ThreadId) (rest : List ThreadId) : (s.issue t rest).config = s.config := rfl

@[simp] theorem State.issue_addrBit1Exchange (t : ThreadId) (rest : List ThreadId) : (s.issue t rest).addrBit1Exchange = s.addrBit1Exchange := rfl

@[simp] theorem State.issue_srcA (t : ThreadId) (rest : List ThreadId) : (s.issue t rest).srcA = s.srcA := rfl

@[simp] theorem State.issue_srcB (t : ThreadId) (rest : List ThreadId) : (s.issue t rest).srcB = s.srcB := rfl

@[simp] theorem State.issue_dst (t : ThreadId) (rest : List ThreadId) : (s.issue t rest).dst = s.dst := rfl

@[simp] theorem State.issue_l1 (t : ThreadId) (rest : List ThreadId) : (s.issue t rest).l1 = s.l1 := rfl

@[simp] theorem State.issue_sequences (t : ThreadId) (rest : List ThreadId) : (s.issue t rest).sequences = s.sequences.set t { s.sequences.get t with position := (s.sequences.get t).position + 1 } := rfl

@[simp] theorem State.issue_currentThread (t : ThreadId) (rest : List ThreadId) : (s.issue t rest).currentThread = t := rfl

@[simp] theorem State.issue_schedule (t : ThreadId) (rest : List ThreadId) : (s.issue t rest).schedule = rest := rfl

@[simp] theorem State.issue_effects (t : ThreadId) (rest : List ThreadId) : (s.issue t rest).effects = s.effects := rfl

@[simp] theorem State.issue_freeIndex (t : ThreadId) (rest : List ThreadId) : (s.issue t rest).freeIndex = s.freeIndex := rfl

@[simp] theorem State.issue_configIndex (t : ThreadId) (rest : List ThreadId) : (s.issue t rest).configIndex = s.configIndex := rfl

@[simp] theorem State.placeWord_rwc (w : Word) : (s.placeWord w).rwc = s.rwc := rfl

@[simp] theorem State.placeWord_adc (w : Word) : (s.placeWord w).adc = s.adc := rfl

@[simp] theorem State.placeWord_threadConfig (w : Word) : (s.placeWord w).threadConfig = s.threadConfig := rfl

@[simp] theorem State.placeWord_config (w : Word) : (s.placeWord w).config = s.config := rfl

@[simp] theorem State.placeWord_addrBit1Exchange (w : Word) : (s.placeWord w).addrBit1Exchange = s.addrBit1Exchange := rfl

@[simp] theorem State.placeWord_srcA (w : Word) : (s.placeWord w).srcA = s.srcA := rfl

@[simp] theorem State.placeWord_srcB (w : Word) : (s.placeWord w).srcB = s.srcB := rfl

@[simp] theorem State.placeWord_dst (w : Word) : (s.placeWord w).dst = s.dst := rfl

@[simp] theorem State.placeWord_l1 (w : Word) : (s.placeWord w).l1 = s.l1 := rfl

@[simp] theorem State.placeWord_sequences (w : Word) : (s.placeWord w).sequences = s.sequences.set s.nextThread ((s.sequences.get s.nextThread).place (.word w)) := rfl

@[simp] theorem State.placeWord_currentThread (w : Word) : (s.placeWord w).currentThread = s.currentThread := rfl

@[simp] theorem State.placeWord_schedule (w : Word) : (s.placeWord w).schedule = s.nextThread :: s.schedule.tail := rfl

@[simp] theorem State.placeWord_effects (w : Word) : (s.placeWord w).effects = s.effects := rfl

@[simp] theorem State.placeWord_freeIndex (w : Word) : (s.placeWord w).freeIndex = s.freeIndex := rfl

@[simp] theorem State.placeWord_configIndex (w : Word) : (s.placeWord w).configIndex = s.configIndex := rfl

@[simp] theorem State.asThread_rwc (t : ThreadId) : (s.asThread t).rwc = s.rwc := rfl

@[simp] theorem State.asThread_adc (t : ThreadId) : (s.asThread t).adc = s.adc := rfl

@[simp] theorem State.asThread_threadConfig (t : ThreadId) : (s.asThread t).threadConfig = s.threadConfig := rfl

@[simp] theorem State.asThread_config (t : ThreadId) : (s.asThread t).config = s.config := rfl

@[simp] theorem State.asThread_addrBit1Exchange (t : ThreadId) : (s.asThread t).addrBit1Exchange = s.addrBit1Exchange := rfl

@[simp] theorem State.asThread_srcA (t : ThreadId) : (s.asThread t).srcA = s.srcA := rfl

@[simp] theorem State.asThread_srcB (t : ThreadId) : (s.asThread t).srcB = s.srcB := rfl

@[simp] theorem State.asThread_dst (t : ThreadId) : (s.asThread t).dst = s.dst := rfl

@[simp] theorem State.asThread_l1 (t : ThreadId) : (s.asThread t).l1 = s.l1 := rfl

@[simp] theorem State.asThread_sequences (t : ThreadId) : (s.asThread t).sequences = s.sequences := rfl

@[simp] theorem State.asThread_currentThread (t : ThreadId) : (s.asThread t).currentThread = t := rfl

@[simp] theorem State.asThread_schedule (t : ThreadId) : (s.asThread t).schedule = s.schedule := rfl

@[simp] theorem State.asThread_effects (t : ThreadId) : (s.asThread t).effects = s.effects := rfl

@[simp] theorem State.asThread_freeIndex (t : ThreadId) : (s.asThread t).freeIndex = s.freeIndex := rfl

@[simp] theorem State.asThread_configIndex (t : ThreadId) : (s.asThread t).configIndex = s.configIndex := rfl

@[simp] theorem State.currentRwc_setRwc (r : Rwc) : (s.setRwc r).currentRwc = r := PerThread.get_set_same ..

@[simp] theorem State.currentRwc_emit (es : List Effect) : (s.emit es).currentRwc = s.currentRwc := rfl

@[simp] theorem State.currentRwc_writeFreeDst (cells : List Nat) : (s.writeFreeDst cells).currentRwc = s.currentRwc := rfl

end Updates

end Sys2Proof.Machine
end

