-- ==== Sys2Proof/Laws/Exec.lean ====
section
/-! SUPPORT. What the shared operations and an instruction can do, said once: the selection of a descriptor, a consumer, the
shapes of a next state, a step. -/

namespace Sys2Proof.Machine

theorem upperBank_iff (s : State) : s.upperBank = true ↔ UpperSelected s := by
  have h : ∀ b : BitVec 1, b = 1#1 ↔ b.toNat = 1 := by decide
  simp [State.upperBank, UpperSelected, State.currentRwc, State.currentConfig, h]

/-- The operand form of R131 and the table of R131 agree. -/
theorem sectionIndex_iff (s : State) (am index : Nat) :
    sectionIndex am s.upperBank = .ok index ↔ SelectsSection s am index := by
  have hup := upperBank_iff s
  unfold sectionIndex SelectsSection
  cases h : s.upperBank <;> simp only [h] at hup <;>
    (have hu := hup; simp only [Bool.false_eq_true, false_iff, true_iff] at hu
     by_cases h4 : am < 4 <;> by_cases h8 : am < 8 <;> simp [h4, h8, hu] <;> omega)

/-- A consumer whose addr_mode selects a section completes, and this is its next state. -/
theorem consume_of_selects {am index : Nat} {upd : Bool} {f : State → State} {s : State} (h : SelectsSection s am index) :
    consume am upd f s = .next ((f s).setRwc (s.currentRwc.applyDescriptor upd (s.descriptor index))) := by
  rw [consume, (sectionIndex_iff s am index).mpr h]

/-- Everything that a consumer can do when it completes. -/
theorem consume_next {am : Nat} {upd : Bool} {f : State → State} {s s' : State} (h : consume am upd f s = .next s') :
    ∃ index, SelectsSection s am index ∧ s' = (f s).setRwc (s.currentRwc.applyDescriptor upd (s.descriptor index)) := by
  unfold consume at h
  split at h
  · cases h
  · rename_i index hindex
    cases h
    exact ⟨index, (sectionIndex_iff s am index).mp hindex, rfl⟩

/-- In the upper bank an addr_mode of 4..7 is refused. -/
theorem consume_upper {am : Nat} {upd : Bool} {f : State → State} {s : State} (hup : UpperSelected s) (h4 : 4 ≤ am)
    (h8 : am < 8) : consume am upd f s = .refused .addrModeInUpperBank := by
  have : sectionIndex am s.upperBank = .error .addrModeInUpperBank := by
    rw [(upperBank_iff s).mpr hup, sectionIndex, if_neg (by omega), if_pos h8, if_pos rfl]
  rw [consume, this]

/-- The address effects of the consumers touch Dst, the effects and the draw index, as `writeFreeDst` and `emit` do. -/
theorem consumer_exec {i : Instr} {am : Nat} {upd : Bool} (h : addrModeUse i = some (am, upd)) (s : State) :
    ∃ f : State → State, exec i s = consume am upd f s
      ∧ ∃ es, f s = s.emit es ∨ ∃ cells : List Nat, (∀ a ∈ cells, a < 1024 * 16) ∧ f s = (s.writeFreeDst cells).emit es := by
  have hblock : ∀ d : BitVec 14, ∀ a ∈ dstBlockCells (s.matrixDstRow d), a < 1024 * 16 := by
    intro d a ha
    have hrow : (s.matrixDstRow d).toNat ≤ 1016 := by
      have : ∀ x : BitVec 10, (x &&& 0x3f8#10).toNat ≤ 1016 := by
        intro x
        rw [BitVec.toNat_and]
        exact Nat.and_le_right
      exact this _
    simp only [dstBlockCells, Config.cols, List.mem_range'_1] at ha
    omega
  have hlane : ∀ cells : List DstCell, ∀ a ∈ cells.map DstCell.number, a < 1024 * 16 := by
    intro cells a ha
    obtain ⟨c, -, rfl⟩ := List.mem_map.mp ha
    have := c.row.isLt
    have := c.column.isLt
    simp only [DstCell.number, Config.cols]
    omega
  cases i <;> simp only [addrModeUse, Option.some.injEq, Prod.mk.injEq, reduceCtorEq] at h
  case mvmul c m a d =>
    obtain ⟨rfl, rfl⟩ := h
    exact ⟨_, rfl, _, .inr ⟨_, hblock d, rfl⟩⟩
  case elwadd c m b e a d =>
    obtain ⟨rfl, rfl⟩ := h
    exact ⟨_, rfl, _, .inr ⟨_, hblock d, rfl⟩⟩
  case sfpload l m a d =>
    obtain ⟨rfl, rfl⟩ := h
    exact ⟨_, rfl, _, .inl rfl⟩
  case sfpstore l m a d =>
    obtain ⟨rfl, rfl⟩ := h
    exact ⟨_, rfl, _, .inr ⟨_, hlane _, rfl⟩⟩

/-- A consumer whose addr_mode selects a section completes with the RWC record that the descriptor gives. -/
theorem consumer_next {i : Instr} {am : Nat} {upd : Bool} {s : State} {index : Nat} (h : addrModeUse i = some (am, upd))
    (hsel : SelectsSection s am index) :
    ∃ s', exec i s = .next s'
      ∧ s'.rwc.get s.currentThread = (s.rwc.get s.currentThread).applyDescriptor upd (s.descriptor index) := by
  obtain ⟨f, hexec, es, hf⟩ := consumer_exec h s
  refine ⟨_, hexec.trans (consume_of_selects hsel), ?_⟩
  rcases hf with hf | ⟨cells, -, hf⟩ <;> rw [hf] <;> simp [State.currentRwc]

/-- Everything that a matrix instruction can do when it completes: its RWC record, the effects and its 8 rows of Dst. -/
theorem matrix_next {am : Nat} {srcA srcB : Rows} {row : BitVec 10} {clr : BitVec 2} {s s' : State}
    (h : consume am true (matrixEffect srcA srcB row clr) s = .next s') :
    ∃ index, SelectsSection s am index
      ∧ s' = { s with
          rwc := s.rwc.set s.currentThread (s.currentRwc.applyDescriptor true (s.descriptor index))
          dst := Cells.writeAll (Config.freeDst s.freeIndex) (dstBlockCells row) s.dst
          effects := s.effects
            ++ (.matrixRows srcA srcB (.block row.toNat 8) :: clearDvalidEffects clr).map (Event.mk s.currentThread)
          freeIndex := s.freeIndex + 1 } := by
  obtain ⟨index, hsel, rfl⟩ := consume_next h
  refine ⟨index, hsel, ?_⟩
  unfold matrixEffect
  generalize dstBlockCells row = cells
  rfl

/-- Everything that SFPLOAD's update can do when it completes: its RWC record and the effects. -/
theorem laneLoad_next {am : Nat} {cells : List DstCell} {s s' : State}
    (h : consume am false (laneLoadEffect cells) s = .next s') :
    ∃ index, SelectsSection s am index
      ∧ s' = { s with
          rwc := s.rwc.set s.currentThread (s.currentRwc.applyDescriptor false (s.descriptor index))
          effects := s.effects ++ [⟨s.currentThread, .laneLoads cells (cells.map (fun c => s.dst.read c.number))⟩] } := by
  obtain ⟨index, hsel, rfl⟩ := consume_next h
  exact ⟨index, hsel, rfl⟩

/-- Everything that SFPSTORE's update can do when it completes: its RWC record, the effects and the lanes' elements of Dst. -/
theorem laneStore_next {am : Nat} {cells : List DstCell} {s s' : State}
    (h : consume am false (laneStoreEffect cells) s = .next s') :
    ∃ index, SelectsSection s am index
      ∧ s' = { s with
          rwc := s.rwc.set s.currentThread (s.currentRwc.applyDescriptor false (s.descriptor index))
          dst := Cells.writeAll (Config.freeDst s.freeIndex) (cells.map DstCell.number) s.dst
          effects := s.effects ++ [⟨s.currentThread, .laneStores cells⟩]
          freeIndex := s.freeIndex + 1 } := by
  obtain ⟨index, hsel, rfl⟩ := consume_next h
  refine ⟨index, hsel, ?_⟩
  unfold laneStoreEffect
  generalize cells.map DstCell.number = numbers
  rfl

/-- The shapes of an instruction's next state. -/
theorem exec_shape {i : Instr} {s s' : State} (h : exec i s = .next s') :
    (addrModeUse i = none ∧ ∃ r es, s' = (s.setRwc r).emit es)
      ∨ (∃ am upd index es, addrModeUse i = some (am, upd) ∧ SelectsSection s am index
          ∧ (s' = (s.emit es).setRwc (s.currentRwc.applyDescriptor upd (s.descriptor index))
            ∨ ∃ cells : List Nat, (∀ a ∈ cells, a < 1024 * 16)
              ∧ s' = ((s.writeFreeDst cells).emit es).setRwc (s.currentRwc.applyDescriptor upd (s.descriptor index))))
      ∨ (∃ t f, addrModeUse i = none ∧ adcTarget s.currentThread i = some t ∧ s' = s.updateAdc t f)
      ∨ (∃ a v, addrModeUse i = none ∧ a < 256 ∧ s' = s.writeCfg16 a v) := by
  cases huse : addrModeUse i with
  | some use =>
    obtain ⟨am, upd⟩ := use
    obtain ⟨f, hexec, es, hf⟩ := consumer_exec huse s
    obtain ⟨index, hsel, rfl⟩ := consume_next (hexec ▸ h)
    refine .inr (.inl ⟨am, upd, index, es, rfl, hsel, ?_⟩)
    rcases hf with hf | ⟨cells, hcells, hf⟩
    · exact .inl (by rw [hf])
    · exact .inr ⟨cells, hcells, by rw [hf]⟩
  | none =>
    cases i <;> simp only [addrModeUse, reduceCtorEq] at huse
    case setrwc =>
      cases h
      exact .inl ⟨rfl, _, _, rfl⟩
    case incrwc =>
      cases h
      exact .inl ⟨rfl, _, [], by simp [State.emit]; rfl⟩
    case setc16 addr32 value =>
      cases h
      exact .inr (.inr (.inr ⟨addr32.toNat, value, rfl, addr32.isLt, rfl⟩))
    case replay => cases h
    case mop => cases h
    case unpacr => cases h
    case pacr => cases h
    all_goals
      cases h
      exact .inr (.inr (.inl ⟨_, _, rfl, rfl, rfl⟩))

/-- Everything that a step can do when it completes. -/
theorem step_next {s s' : State} (h : step s = .next s') :
    ∃ t rest e i, s.schedule = t :: rest ∧ (s.sequences.get t).entries[(s.sequences.get t).position]? = some e
      ∧ e.instr = .ok i ∧ exec i (s.issue t rest) = .next s' := by
  unfold step at h
  split at h
  · cases h
  · rename_i t rest hs
    split at h
    · cases h
    · rename_i e he
      split at h
      · cases h
      · rename_i i hi
        exact ⟨t, rest, e, i, hs, he, hi, h⟩

/-- An instruction leaves the instruction supply, the current thread, L1, SrcA, SrcB and the shared configuration alone. -/
theorem exec_keeps {i : Instr} {s s' : State} (h : exec i s = .next s') :
    s'.currentThread = s.currentThread ∧ s'.schedule = s.schedule ∧ s'.sequences = s.sequences ∧ s'.config = s.config := by
  rcases exec_shape h with ⟨-, r, es, rfl⟩ | ⟨am, upd, index, es, -, -, rfl | ⟨cells, -, rfl⟩⟩ | ⟨t, f, -, -, rfl⟩ | ⟨a, v, -, -, rfl⟩ <;>
    exact ⟨rfl, rfl, rfl, rfl⟩

/-- An instruction leaves the RWC record, the configuration and the configuration draw index of every other thread alone (R10, R48). -/
theorem exec_otherThreads {i : Instr} {s s' : State} (h : exec i s = .next s') {u : ThreadId} (hu : u ≠ s.currentThread) :
    s'.rwc.get u = s.rwc.get u ∧ s'.threadConfig.get u = s.threadConfig.get u ∧ s'.configIndex.get u = s.configIndex.get u := by
  rcases exec_shape h with ⟨-, r, es, rfl⟩ | ⟨am, upd, index, es, -, -, rfl | ⟨cells, -, rfl⟩⟩ | ⟨t, f, -, -, rfl⟩ | ⟨a, v, -, -, rfl⟩
  case inr.inr.inr =>
    refine ⟨rfl, by simp [PerThread.get_set, hu], ?_⟩
    simp only [State.writeCfg16_configIndex]
    split_ifs <;> simp [PerThread.get_set, hu]
  all_goals simp [PerThread.get_set, hu]

/-- What one thread computes its RWC records from: its record, its configuration and its draw index. -/
def AgreeOn (t : ThreadId) (s₁ s₂ : State) : Prop :=
  s₁.rwc.get t = s₂.rwc.get t ∧ s₁.threadConfig.get t = s₂.threadConfig.get t ∧ s₁.configIndex.get t = s₂.configIndex.get t

/-- An instruction completes from both of two states that agree on its thread, or from neither, and leaves them in agreement. -/
theorem exec_agree {i : Instr} {s₁ s₂ s₁' : State} (ht : s₁.currentThread = s₂.currentThread) (h : AgreeOn s₁.currentThread s₁ s₂)
    (hx : exec i s₁ = .next s₁') : ∃ s₂', exec i s₂ = .next s₂' ∧ AgreeOn s₁.currentThread s₁' s₂' := by
  obtain ⟨hr, hc, hd⟩ := h
  rw [ht] at hr hc hd ⊢
  have hrwc : s₁.currentRwc = s₂.currentRwc := by rw [State.currentRwc, ht, hr, State.currentRwc]
  have hcfg : s₁.currentConfig = s₂.currentConfig := by rw [State.currentConfig, ht, hc, State.currentConfig]
  have hup : s₁.upperBank = s₂.upperBank := by rw [State.upperBank, hrwc, hcfg, State.upperBank]
  have hdesc : ∀ index, s₁.descriptor index = s₂.descriptor index := by
    intro index
    simp only [State.descriptor, State.cfg16, ht, hc]
  cases huse : addrModeUse i with
  | some use =>
    obtain ⟨am, upd⟩ := use
    obtain ⟨f, hexec, es, hf⟩ := consumer_exec huse s₁
    obtain ⟨index, hsel, rfl⟩ := consume_next (hexec ▸ hx)
    obtain ⟨g, hexec₂, es₂, hg⟩ := consumer_exec huse s₂
    have hsel₂ : SelectsSection s₂ am index := (sectionIndex_iff ..).mp (hup ▸ (sectionIndex_iff ..).mpr hsel)
    refine ⟨_, hexec₂.trans (consume_of_selects hsel₂), ?_⟩
    rcases hf with hf | ⟨cells, -, hf⟩ <;> rcases hg with hg | ⟨cells₂, -, hg⟩ <;> rw [hf, hg] <;>
      simp [AgreeOn, ht, hc, hd, hrwc, hdesc]
  | none =>
    cases i <;> simp only [addrModeUse, reduceCtorEq] at huse
    case setc16 addr32 value =>
      cases hx
      refine ⟨_, rfl, hr, by simp [ht, hcfg, hd], ?_⟩
      simp only [State.writeCfg16_configIndex]
      split_ifs <;> simp [ht, hd]
    case setrwc | incrwc =>
      cases hx
      exact ⟨_, rfl, by simp [AgreeOn, ht, hc, hd, hrwc]⟩
    all_goals first
      | cases hx; exact ⟨_, rfl, hr, hc, hd⟩
      | cases hx

end Sys2Proof.Machine
end

