-- ==== Sys2Proof/Laws/Rwc.lean ====
section
/-! SUPPORT. Each step of SETRWC, of INCRWC and of ApplyAddrMod writes its own counter pair and no other field (spec/41_setrwc_incrwc.md
R110, R120, spec/42_addrmod.md R140). -/

namespace Sys2Proof.Machine

variable (r : Rwc)

@[simp] theorem Rwc.stepSrcA_dst (ab : CfgWord) : (r.stepSrcA ab).dst = r.dst := by
  unfold Rwc.stepSrcA
  split_ifs <;> rfl

@[simp] theorem Rwc.stepSrcA_dstCr (ab : CfgWord) : (r.stepSrcA ab).dstCr = r.dstCr := by
  unfold Rwc.stepSrcA
  split_ifs <;> rfl

@[simp] theorem Rwc.stepSrcA_srcB (ab : CfgWord) : (r.stepSrcA ab).srcB = r.srcB := by
  unfold Rwc.stepSrcA
  split_ifs <;> rfl

@[simp] theorem Rwc.stepSrcA_srcBCr (ab : CfgWord) : (r.stepSrcA ab).srcBCr = r.srcBCr := by
  unfold Rwc.stepSrcA
  split_ifs <;> rfl

@[simp] theorem Rwc.stepSrcA_fidelityPhase (ab : CfgWord) : (r.stepSrcA ab).fidelityPhase = r.fidelityPhase := by
  unfold Rwc.stepSrcA
  split_ifs <;> rfl

@[simp] theorem Rwc.stepSrcA_extraAddrModBit (ab : CfgWord) : (r.stepSrcA ab).extraAddrModBit = r.extraAddrModBit := by
  unfold Rwc.stepSrcA
  split_ifs <;> rfl

@[simp] theorem Rwc.stepSrcB_dst (ab : CfgWord) : (r.stepSrcB ab).dst = r.dst := by
  unfold Rwc.stepSrcB
  split_ifs <;> rfl

@[simp] theorem Rwc.stepSrcB_dstCr (ab : CfgWord) : (r.stepSrcB ab).dstCr = r.dstCr := by
  unfold Rwc.stepSrcB
  split_ifs <;> rfl

@[simp] theorem Rwc.stepSrcB_srcA (ab : CfgWord) : (r.stepSrcB ab).srcA = r.srcA := by
  unfold Rwc.stepSrcB
  split_ifs <;> rfl

@[simp] theorem Rwc.stepSrcB_srcACr (ab : CfgWord) : (r.stepSrcB ab).srcACr = r.srcACr := by
  unfold Rwc.stepSrcB
  split_ifs <;> rfl

@[simp] theorem Rwc.stepSrcB_fidelityPhase (ab : CfgWord) : (r.stepSrcB ab).fidelityPhase = r.fidelityPhase := by
  unfold Rwc.stepSrcB
  split_ifs <;> rfl

@[simp] theorem Rwc.stepSrcB_extraAddrModBit (ab : CfgWord) : (r.stepSrcB ab).extraAddrModBit = r.extraAddrModBit := by
  unfold Rwc.stepSrcB
  split_ifs <;> rfl

@[simp] theorem Rwc.stepDst_srcA (d : CfgWord) : (r.stepDst d).srcA = r.srcA := by
  unfold Rwc.stepDst
  split_ifs <;> rfl

@[simp] theorem Rwc.stepDst_srcACr (d : CfgWord) : (r.stepDst d).srcACr = r.srcACr := by
  unfold Rwc.stepDst
  split_ifs <;> rfl

@[simp] theorem Rwc.stepDst_srcB (d : CfgWord) : (r.stepDst d).srcB = r.srcB := by
  unfold Rwc.stepDst
  split_ifs <;> rfl

@[simp] theorem Rwc.stepDst_srcBCr (d : CfgWord) : (r.stepDst d).srcBCr = r.srcBCr := by
  unfold Rwc.stepDst
  split_ifs <;> rfl

@[simp] theorem Rwc.stepDst_fidelityPhase (d : CfgWord) : (r.stepDst d).fidelityPhase = r.fidelityPhase := by
  unfold Rwc.stepDst
  split_ifs <;> rfl

@[simp] theorem Rwc.stepDst_extraAddrModBit (d : CfgWord) : (r.stepDst d).extraAddrModBit = r.extraAddrModBit := by
  unfold Rwc.stepDst
  split_ifs <;> rfl

@[simp] theorem Rwc.stepFidelity_dst (upd : Bool) (d : CfgWord) : (r.stepFidelity upd d).dst = r.dst := by
  unfold Rwc.stepFidelity
  split_ifs <;> rfl

@[simp] theorem Rwc.stepFidelity_dstCr (upd : Bool) (d : CfgWord) : (r.stepFidelity upd d).dstCr = r.dstCr := by
  unfold Rwc.stepFidelity
  split_ifs <;> rfl

@[simp] theorem Rwc.stepFidelity_srcA (upd : Bool) (d : CfgWord) : (r.stepFidelity upd d).srcA = r.srcA := by
  unfold Rwc.stepFidelity
  split_ifs <;> rfl

@[simp] theorem Rwc.stepFidelity_srcACr (upd : Bool) (d : CfgWord) : (r.stepFidelity upd d).srcACr = r.srcACr := by
  unfold Rwc.stepFidelity
  split_ifs <;> rfl

@[simp] theorem Rwc.stepFidelity_srcB (upd : Bool) (d : CfgWord) : (r.stepFidelity upd d).srcB = r.srcB := by
  unfold Rwc.stepFidelity
  split_ifs <;> rfl

@[simp] theorem Rwc.stepFidelity_srcBCr (upd : Bool) (d : CfgWord) : (r.stepFidelity upd d).srcBCr = r.srcBCr := by
  unfold Rwc.stepFidelity
  split_ifs <;> rfl

@[simp] theorem Rwc.stepFidelity_extraAddrModBit (upd : Bool) (d : CfgWord) : (r.stepFidelity upd d).extraAddrModBit = r.extraAddrModBit := by
  unfold Rwc.stepFidelity
  split_ifs <;> rfl

@[simp] theorem Rwc.stepExtraBit_dst (b : CfgWord) : (r.stepExtraBit b).dst = r.dst := by
  unfold Rwc.stepExtraBit
  split_ifs <;> rfl

@[simp] theorem Rwc.stepExtraBit_dstCr (b : CfgWord) : (r.stepExtraBit b).dstCr = r.dstCr := by
  unfold Rwc.stepExtraBit
  split_ifs <;> rfl

@[simp] theorem Rwc.stepExtraBit_srcA (b : CfgWord) : (r.stepExtraBit b).srcA = r.srcA := by
  unfold Rwc.stepExtraBit
  split_ifs <;> rfl

@[simp] theorem Rwc.stepExtraBit_srcACr (b : CfgWord) : (r.stepExtraBit b).srcACr = r.srcACr := by
  unfold Rwc.stepExtraBit
  split_ifs <;> rfl

@[simp] theorem Rwc.stepExtraBit_srcB (b : CfgWord) : (r.stepExtraBit b).srcB = r.srcB := by
  unfold Rwc.stepExtraBit
  split_ifs <;> rfl

@[simp] theorem Rwc.stepExtraBit_srcBCr (b : CfgWord) : (r.stepExtraBit b).srcBCr = r.srcBCr := by
  unfold Rwc.stepExtraBit
  split_ifs <;> rfl

@[simp] theorem Rwc.stepExtraBit_fidelityPhase (b : CfgWord) : (r.stepExtraBit b).fidelityPhase = r.fidelityPhase := by
  unfold Rwc.stepExtraBit
  split_ifs <;> rfl

@[simp] theorem Rwc.setSrcA_dst (m : BitVec 6) (cr v : BitVec 4) : (r.setSrcA m cr v).dst = r.dst := by
  dsimp only [Rwc.setSrcA]
  split_ifs <;> rfl

@[simp] theorem Rwc.setSrcA_dstCr (m : BitVec 6) (cr v : BitVec 4) : (r.setSrcA m cr v).dstCr = r.dstCr := by
  dsimp only [Rwc.setSrcA]
  split_ifs <;> rfl

@[simp] theorem Rwc.setSrcA_srcB (m : BitVec 6) (cr v : BitVec 4) : (r.setSrcA m cr v).srcB = r.srcB := by
  dsimp only [Rwc.setSrcA]
  split_ifs <;> rfl

@[simp] theorem Rwc.setSrcA_srcBCr (m : BitVec 6) (cr v : BitVec 4) : (r.setSrcA m cr v).srcBCr = r.srcBCr := by
  dsimp only [Rwc.setSrcA]
  split_ifs <;> rfl

@[simp] theorem Rwc.setSrcA_fidelityPhase (m : BitVec 6) (cr v : BitVec 4) : (r.setSrcA m cr v).fidelityPhase = r.fidelityPhase := by
  dsimp only [Rwc.setSrcA]
  split_ifs <;> rfl

@[simp] theorem Rwc.setSrcA_extraAddrModBit (m : BitVec 6) (cr v : BitVec 4) : (r.setSrcA m cr v).extraAddrModBit = r.extraAddrModBit := by
  dsimp only [Rwc.setSrcA]
  split_ifs <;> rfl

@[simp] theorem Rwc.setSrcB_dst (m : BitVec 6) (cr v : BitVec 4) : (r.setSrcB m cr v).dst = r.dst := by
  dsimp only [Rwc.setSrcB]
  split_ifs <;> rfl

@[simp] theorem Rwc.setSrcB_dstCr (m : BitVec 6) (cr v : BitVec 4) : (r.setSrcB m cr v).dstCr = r.dstCr := by
  dsimp only [Rwc.setSrcB]
  split_ifs <;> rfl

@[simp] theorem Rwc.setSrcB_srcA (m : BitVec 6) (cr v : BitVec 4) : (r.setSrcB m cr v).srcA = r.srcA := by
  dsimp only [Rwc.setSrcB]
  split_ifs <;> rfl

@[simp] theorem Rwc.setSrcB_srcACr (m : BitVec 6) (cr v : BitVec 4) : (r.setSrcB m cr v).srcACr = r.srcACr := by
  dsimp only [Rwc.setSrcB]
  split_ifs <;> rfl

@[simp] theorem Rwc.setSrcB_fidelityPhase (m : BitVec 6) (cr v : BitVec 4) : (r.setSrcB m cr v).fidelityPhase = r.fidelityPhase := by
  dsimp only [Rwc.setSrcB]
  split_ifs <;> rfl

@[simp] theorem Rwc.setSrcB_extraAddrModBit (m : BitVec 6) (cr v : BitVec 4) : (r.setSrcB m cr v).extraAddrModBit = r.extraAddrModBit := by
  dsimp only [Rwc.setSrcB]
  split_ifs <;> rfl

@[simp] theorem Rwc.setDst_srcA (m : BitVec 6) (cr v : BitVec 4) : (r.setDst m cr v).srcA = r.srcA := by
  dsimp only [Rwc.setDst]
  split_ifs <;> rfl

@[simp] theorem Rwc.setDst_srcACr (m : BitVec 6) (cr v : BitVec 4) : (r.setDst m cr v).srcACr = r.srcACr := by
  dsimp only [Rwc.setDst]
  split_ifs <;> rfl

@[simp] theorem Rwc.setDst_srcB (m : BitVec 6) (cr v : BitVec 4) : (r.setDst m cr v).srcB = r.srcB := by
  dsimp only [Rwc.setDst]
  split_ifs <;> rfl

@[simp] theorem Rwc.setDst_srcBCr (m : BitVec 6) (cr v : BitVec 4) : (r.setDst m cr v).srcBCr = r.srcBCr := by
  dsimp only [Rwc.setDst]
  split_ifs <;> rfl

@[simp] theorem Rwc.setDst_fidelityPhase (m : BitVec 6) (cr v : BitVec 4) : (r.setDst m cr v).fidelityPhase = r.fidelityPhase := by
  dsimp only [Rwc.setDst]
  split_ifs <;> rfl

@[simp] theorem Rwc.setDst_extraAddrModBit (m : BitVec 6) (cr v : BitVec 4) : (r.setDst m cr v).extraAddrModBit = r.extraAddrModBit := by
  dsimp only [Rwc.setDst]
  split_ifs <;> rfl

@[simp] theorem Rwc.setFidelity_dst (m : BitVec 6) : (r.setFidelity m).dst = r.dst := by
  unfold Rwc.setFidelity
  split_ifs <;> rfl

@[simp] theorem Rwc.setFidelity_dstCr (m : BitVec 6) : (r.setFidelity m).dstCr = r.dstCr := by
  unfold Rwc.setFidelity
  split_ifs <;> rfl

@[simp] theorem Rwc.setFidelity_srcA (m : BitVec 6) : (r.setFidelity m).srcA = r.srcA := by
  unfold Rwc.setFidelity
  split_ifs <;> rfl

@[simp] theorem Rwc.setFidelity_srcACr (m : BitVec 6) : (r.setFidelity m).srcACr = r.srcACr := by
  unfold Rwc.setFidelity
  split_ifs <;> rfl

@[simp] theorem Rwc.setFidelity_srcB (m : BitVec 6) : (r.setFidelity m).srcB = r.srcB := by
  unfold Rwc.setFidelity
  split_ifs <;> rfl

@[simp] theorem Rwc.setFidelity_srcBCr (m : BitVec 6) : (r.setFidelity m).srcBCr = r.srcBCr := by
  unfold Rwc.setFidelity
  split_ifs <;> rfl

@[simp] theorem Rwc.setFidelity_extraAddrModBit (m : BitVec 6) : (r.setFidelity m).extraAddrModBit = r.extraAddrModBit := by
  unfold Rwc.setFidelity
  split_ifs <;> rfl

@[simp] theorem Rwc.incSrcA_dst (cr : BitVec 6) (v : BitVec 4) : (r.incSrcA cr v).dst = r.dst := by
  unfold Rwc.incSrcA
  split_ifs <;> rfl

@[simp] theorem Rwc.incSrcA_dstCr (cr : BitVec 6) (v : BitVec 4) : (r.incSrcA cr v).dstCr = r.dstCr := by
  unfold Rwc.incSrcA
  split_ifs <;> rfl

@[simp] theorem Rwc.incSrcA_srcB (cr : BitVec 6) (v : BitVec 4) : (r.incSrcA cr v).srcB = r.srcB := by
  unfold Rwc.incSrcA
  split_ifs <;> rfl

@[simp] theorem Rwc.incSrcA_srcBCr (cr : BitVec 6) (v : BitVec 4) : (r.incSrcA cr v).srcBCr = r.srcBCr := by
  unfold Rwc.incSrcA
  split_ifs <;> rfl

@[simp] theorem Rwc.incSrcA_fidelityPhase (cr : BitVec 6) (v : BitVec 4) : (r.incSrcA cr v).fidelityPhase = r.fidelityPhase := by
  unfold Rwc.incSrcA
  split_ifs <;> rfl

@[simp] theorem Rwc.incSrcA_extraAddrModBit (cr : BitVec 6) (v : BitVec 4) : (r.incSrcA cr v).extraAddrModBit = r.extraAddrModBit := by
  unfold Rwc.incSrcA
  split_ifs <;> rfl

@[simp] theorem Rwc.incSrcB_dst (cr : BitVec 6) (v : BitVec 4) : (r.incSrcB cr v).dst = r.dst := by
  unfold Rwc.incSrcB
  split_ifs <;> rfl

@[simp] theorem Rwc.incSrcB_dstCr (cr : BitVec 6) (v : BitVec 4) : (r.incSrcB cr v).dstCr = r.dstCr := by
  unfold Rwc.incSrcB
  split_ifs <;> rfl

@[simp] theorem Rwc.incSrcB_srcA (cr : BitVec 6) (v : BitVec 4) : (r.incSrcB cr v).srcA = r.srcA := by
  unfold Rwc.incSrcB
  split_ifs <;> rfl

@[simp] theorem Rwc.incSrcB_srcACr (cr : BitVec 6) (v : BitVec 4) : (r.incSrcB cr v).srcACr = r.srcACr := by
  unfold Rwc.incSrcB
  split_ifs <;> rfl

@[simp] theorem Rwc.incSrcB_fidelityPhase (cr : BitVec 6) (v : BitVec 4) : (r.incSrcB cr v).fidelityPhase = r.fidelityPhase := by
  unfold Rwc.incSrcB
  split_ifs <;> rfl

@[simp] theorem Rwc.incSrcB_extraAddrModBit (cr : BitVec 6) (v : BitVec 4) : (r.incSrcB cr v).extraAddrModBit = r.extraAddrModBit := by
  unfold Rwc.incSrcB
  split_ifs <;> rfl

@[simp] theorem Rwc.incDst_srcA (cr : BitVec 6) (v : BitVec 4) : (r.incDst cr v).srcA = r.srcA := by
  unfold Rwc.incDst
  split_ifs <;> rfl

@[simp] theorem Rwc.incDst_srcACr (cr : BitVec 6) (v : BitVec 4) : (r.incDst cr v).srcACr = r.srcACr := by
  unfold Rwc.incDst
  split_ifs <;> rfl

@[simp] theorem Rwc.incDst_srcB (cr : BitVec 6) (v : BitVec 4) : (r.incDst cr v).srcB = r.srcB := by
  unfold Rwc.incDst
  split_ifs <;> rfl

@[simp] theorem Rwc.incDst_srcBCr (cr : BitVec 6) (v : BitVec 4) : (r.incDst cr v).srcBCr = r.srcBCr := by
  unfold Rwc.incDst
  split_ifs <;> rfl

@[simp] theorem Rwc.incDst_fidelityPhase (cr : BitVec 6) (v : BitVec 4) : (r.incDst cr v).fidelityPhase = r.fidelityPhase := by
  unfold Rwc.incDst
  split_ifs <;> rfl

@[simp] theorem Rwc.incDst_extraAddrModBit (cr : BitVec 6) (v : BitVec 4) : (r.incDst cr v).extraAddrModBit = r.extraAddrModBit := by
  unfold Rwc.incDst
  split_ifs <;> rfl

end Sys2Proof.Machine
end

