-- ==== Sys2Proof/Laws/Operands.lean ====
section
/-! SUPPORT. Operand flags, descriptor fields, rows and cells read as numbers (spec/00_scope.md R7). -/

namespace Sys2Proof.Machine

/-- A bit of an operand is the bit of its number. -/
theorem getLsbD_eq_maskBit {n : Nat} (b : BitVec n) (k : Nat) : b.getLsbD k = decide (MaskBit b k) := by
  rw [BitVec.getLsbD, Nat.testBit_eq_decide_div_mod_eq]

theorem flagSetA_iff (m : BitVec 6) : flagSetA m = true ↔ MaskBit m 0 := by
  rw [flagSetA, getLsbD_eq_maskBit, decide_eq_true_iff]

theorem flagSetB_iff (m : BitVec 6) : flagSetB m = true ↔ MaskBit m 1 := by
  rw [flagSetB, getLsbD_eq_maskBit, decide_eq_true_iff]

theorem flagSetF_iff (m : BitVec 6) : flagSetF m = true ↔ MaskBit m 3 := by
  rw [flagSetF, getLsbD_eq_maskBit, decide_eq_true_iff]

theorem flagDstStep_iff (m : BitVec 6) : flagDstStep m = true ↔ m.toNat / 4 % 4 ≠ 0 := by
  revert m
  decide

theorem flagCrA_iff {n : Nat} (c : BitVec n) : flagCrA c = true ↔ MaskBit c 0 := by
  rw [flagCrA, getLsbD_eq_maskBit, decide_eq_true_iff]

theorem flagCrB_iff {n : Nat} (c : BitVec n) : flagCrB c = true ↔ MaskBit c 1 := by
  rw [flagCrB, getLsbD_eq_maskBit, decide_eq_true_iff]

theorem flagCrD_iff {n : Nat} (c : BitVec n) : flagCrD c = true ↔ MaskBit c 2 := by
  rw [flagCrD, getLsbD_eq_maskBit, decide_eq_true_iff]

theorem flagCToCr_iff (c : BitVec 4) : flagCToCr c = true ↔ MaskBit c 3 := by
  rw [flagCToCr, getLsbD_eq_maskBit, decide_eq_true_iff]

theorem abSrcACr_iff (w : CfgWord) : abSrcACr w = true ↔ MaskBit w 6 := by
  rw [abSrcACr, getLsbD_eq_maskBit, decide_eq_true_iff]

theorem abSrcAClear_iff (w : CfgWord) : abSrcAClear w = true ↔ MaskBit w 7 := by
  rw [abSrcAClear, getLsbD_eq_maskBit, decide_eq_true_iff]

theorem abSrcBCr_iff (w : CfgWord) : abSrcBCr w = true ↔ MaskBit w 14 := by
  rw [abSrcBCr, getLsbD_eq_maskBit, decide_eq_true_iff]

theorem abSrcBClear_iff (w : CfgWord) : abSrcBClear w = true ↔ MaskBit w 15 := by
  rw [abSrcBClear, getLsbD_eq_maskBit, decide_eq_true_iff]

theorem dstDestCr_iff (w : CfgWord) : dstDestCr w = true ↔ MaskBit w 10 := by
  rw [dstDestCr, getLsbD_eq_maskBit, decide_eq_true_iff]

theorem dstDestClear_iff (w : CfgWord) : dstDestClear w = true ↔ MaskBit w 11 := by
  rw [dstDestClear, getLsbD_eq_maskBit, decide_eq_true_iff]

theorem dstDestCToCr_iff (w : CfgWord) : dstDestCToCr w = true ↔ MaskBit w 12 := by
  rw [dstDestCToCr, getLsbD_eq_maskBit, decide_eq_true_iff]

theorem dstFidelityClear_iff (w : CfgWord) : dstFidelityClear w = true ↔ MaskBit w 15 := by
  rw [dstFidelityClear, getLsbD_eq_maskBit, decide_eq_true_iff]

theorem biasClear_iff (w : CfgWord) : biasClear w = true ↔ MaskBit w 4 := by
  rw [biasClear, getLsbD_eq_maskBit, decide_eq_true_iff]

theorem biasSteps_iff (w : CfgWord) : biasSteps w = true ↔ w.toNat % 4 ≠ 0 := by
  rw [biasSteps, getLsbD_eq_maskBit, getLsbD_eq_maskBit, Bool.or_eq_true, decide_eq_true_iff, decide_eq_true_iff]
  simp only [MaskBit]
  omega

theorem abSrcAIncr_toNat (w : CfgWord) : (abSrcAIncr w).toNat = w.toNat % 64 := by
  simp [abSrcAIncr]

theorem abSrcBIncr_toNat (w : CfgWord) : (abSrcBIncr w).toNat = w.toNat / 2 ^ 8 % 64 := by
  simp [abSrcBIncr, Nat.shiftRight_eq_div_pow]

theorem dstDestIncr_toNat (w : CfgWord) : (dstDestIncr w).toNat = w.toNat % 1024 := by
  simp [dstDestIncr]

theorem dstFidelityIncr_toNat (w : CfgWord) : (dstFidelityIncr w).toNat = w.toNat / 2 ^ 13 % 4 := by
  simp [dstFidelityIncr, Nat.shiftRight_eq_div_pow]

/-- Adding a 4-bit operand to a 6-bit counter. -/
theorem toNat_add_setWidth6 (a : BitVec 6) (b : BitVec 4) : (a + b.setWidth 6).toNat = (a.toNat + b.toNat) % 64 := by
  simp [BitVec.toNat_add]

/-- Adding a 4-bit operand to a 10-bit counter. -/
theorem toNat_add_setWidth10 (a : BitVec 10) (b : BitVec 4) : (a + b.setWidth 10).toNat = (a.toNat + b.toNat) % 1024 := by
  simp [BitVec.toNat_add]

theorem toNat_setWidth6 (b : BitVec 4) : (b.setWidth 6).toNat = b.toNat := by
  rw [BitVec.toNat_setWidth]
  exact Nat.mod_eq_of_lt (by omega)

theorem toNat_setWidth10 (b : BitVec 4) : (b.setWidth 10).toNat = b.toNat := by
  rw [BitVec.toNat_setWidth]
  exact Nat.mod_eq_of_lt (by omega)

/-- The mask 0x38 aligns a row to 8. -/
theorem alignedSrcRow_toNat (c : BitVec 6) : (alignedSrcRow c).toNat = c.toNat / 8 * 8 := by
  revert c
  decide

/-- The mask 0x3F8 aligns a row to 8. -/
theorem and_3f8_toNat (c : BitVec 10) : (c &&& 0x3f8#10).toNat = c.toNat / 8 * 8 := by
  have h : c &&& 0x3f8#10 = (c >>> 3) <<< 3 := by
    ext k hk
    rcases Nat.lt_or_ge k 10 with hk | hk
    · interval_cases k <;> simp
    · omega
  rw [h, BitVec.toNat_shiftLeft, BitVec.toNat_ushiftRight, Nat.shiftLeft_eq, Nat.shiftRight_eq_div_pow]
  omega

/-- The mask 0x3FC aligns a row to 4. -/
theorem and_3fc_toNat (c : BitVec 10) : (c &&& 0x3fc#10).toNat = c.toNat / 4 * 4 := by
  have h : c &&& 0x3fc#10 = (c >>> 2) <<< 2 := by
    ext k hk
    rcases Nat.lt_or_ge k 10 with hk | hk
    · interval_cases k <;> simp
    · omega
  rw [h, BitVec.toNat_shiftLeft, BitVec.toNat_ushiftRight, Nat.shiftLeft_eq, Nat.shiftRight_eq_div_pow]
  omega

/-- DstBase as a number (R90). -/
theorem dstBase_toNat (s : State) :
    s.dstBase.toNat = (s.config.destRegwBase + (s.threadConfig.get s.currentThread).mathOffset) % 1024 := by
  simp [State.dstBase, State.currentConfig, BitVec.toNat_add]

/-- The Dst row of a matrix instruction as a number (R91). -/
theorem matrixDstRow_toNat (s : State) (d : BitVec 14) :
    (s.matrixDstRow d).toNat =
      ((s.rwc.get s.currentThread).dst.toNat
        + (s.config.destRegwBase + (s.threadConfig.get s.currentThread).mathOffset) + d.toNat) % 1024 / 8 * 8 := by
  rw [State.matrixDstRow, and_3f8_toNat]
  simp only [BitVec.toNat_add, dstBase_toNat, State.currentRwc, BitVec.toNat_setWidth]
  omega

/-- The Dst address of SFPLOAD and SFPSTORE as a number (R95). -/
theorem sfpAddr_toNat (s : State) (imm10 : BitVec 10) :
    (s.sfpAddr imm10).toNat =
      (imm10.toNat + (s.config.destRegwBase + (s.threadConfig.get s.currentThread).mathOffset)
        + (s.rwc.get s.currentThread).dst.toNat) % 1024 := by
  simp only [State.sfpAddr, BitVec.toNat_add, dstBase_toNat, State.currentRwc]
  omega

end Sys2Proof.Machine
end

