-- ==== Sys2Proof/Laws/Adc.lean ====
section
/-! SUPPORT. What the shared ADC operations do, said once: the units that a CntSetMask selects, one channel of a unit, one
counter of a channel (spec/43_adc.md R160 to R162). -/

namespace Sys2Proof.Machine

/-- CntSetMask selects units bit by bit. -/
theorem Adc.onUnits_unit (a : Adc) (m : BitVec 3) (f : AdcUnit → AdcUnit) (k : Fin 3) :
    (a.onUnits m f).unit k = if MaskBit m k then f (a.unit k) else a.unit k := by
  fin_cases k <;> simp only [Adc.onUnits, Adc.unit, getLsbD_eq_maskBit, decide_eq_true_eq]

/-- An ADC update reaches one thread's record. -/
theorem State.onAdcUnits_unit (s : State) (t u : ThreadId) (m : BitVec 3) (f : AdcUnit → AdcUnit) (k : Fin 3) :
    ((s.onAdcUnits t m f).adc.get u).unit k
      = if u = t ∧ MaskBit m k then f ((s.adc.get u).unit k) else (s.adc.get u).unit k := by
  by_cases h : u = t
  · subst h
    simp [State.onAdcUnits, Adc.onUnits_unit]
  · simp [State.onAdcUnits, PerThread.get_set, h]

/-- One channel is updated, the other kept. -/
theorem AdcUnit.onChannel_channel (u : AdcUnit) (c d : Channel) (f : AdcChannel → AdcChannel) :
    (u.onChannel c f).channel d = if d = c then f (u.channel d) else u.channel d := by
  cases c <;> cases d <;> simp [AdcUnit.onChannel, AdcUnit.channel]

/-- A SETADC value on one counter: that counter holds it at its width, the others are kept. -/
theorem AdcChannel.setDim_counter (c : AdcChannel) (d e : Dim) (v : BitVec 16) :
    (c.setDim d v).counter e = if e = d then v.toNat % 2 ^ dimWidth e else c.counter e := by
  have := v.isLt
  cases d <;> cases e <;>
    simp [AdcChannel.setDim, AdcChannel.setX, AdcChannel.setY, AdcChannel.setZ, AdcChannel.setW, AdcChannel.counter, dimWidth]

/-- The checkpoint of that counter holds the same value, the others are kept. -/
theorem AdcChannel.setDim_checkpoint (c : AdcChannel) (d e : Dim) (v : BitVec 16) :
    (c.setDim d v).checkpoint e = if e = d then v.toNat % 2 ^ dimWidth e else c.checkpoint e := by
  have := v.isLt
  cases d <;> cases e <;>
    simp [AdcChannel.setDim, AdcChannel.setX, AdcChannel.setY, AdcChannel.setZ, AdcChannel.setW, AdcChannel.checkpoint, dimWidth]

/-- ThreadOverride 0 names the issuing thread, n the thread n - 1. -/
theorem overrideThread_iff (o : BitVec 2) (t u : ThreadId) :
    u = overrideThread o t ↔ if o.toNat = 0 then u = t else threadNumber u = o.toNat - 1 := by
  revert o
  cases t <;> cases u <;> decide

end Sys2Proof.Machine
end

