-- ==== Sys2Proof/Laws/Decode.lean ====
section
/-! SUPPORT. The small lemmas of the decoder and the encoder: opcode bytes, selectors, fields of a word put together from fields. -/

namespace Sys2Proof

theorem opcodeOf_code (o : Opcode) : opcodeOf o.code = some o := by cases o <;> rfl

theorem opcodeOf_eq_some {b : BitVec 8} {o : Opcode} (h : opcodeOf b = some o) : o.code = b := by
  simpa using List.find?_some h

@[simp] theorem Dim.ofCode_code (d : Dim) : Dim.ofCode d.code = d := by cases d <;> rfl

@[simp] theorem Dim.code_ofCode (b : BitVec 2) : (Dim.ofCode b).code = b := by
  revert b
  decide

@[simp] theorem Channel.ofCode_code (c : Channel) : Channel.ofCode c.code = c := by cases c <;> rfl

@[simp] theorem Channel.code_ofCode (b : BitVec 1) : (Channel.ofCode b).code = b := by
  revert b
  decide

@[simp] theorem ofBool_beq_one (b : Bool) : (BitVec.ofBool b == 1#1) = b := by cases b <;> rfl

@[simp] theorem ofBool_of_beq_one (b : BitVec 1) : BitVec.ofBool (b == 1#1) = b := by
  revert b
  decide

theorem requireZero_eq_ok {len : Nat} {b : BitVec len} {e : DecodeError} {i j : Instr} :
    requireZero b e i = .ok j ↔ b = 0#len ∧ i = j := by
  unfold requireZero
  split <;> simp_all

/-- A slice of the high part of a concatenation. -/
theorem extract_append_high {n m lo len : Nat} (a : BitVec n) (b : BitVec m) (h : m ≤ lo) :
    (a ++ b).extractLsb' lo len = a.extractLsb' (lo - m) len := by
  ext k hk
  simp only [BitVec.getElem_extractLsb', BitVec.getLsbD_append]
  rw [if_neg (by omega), show lo + k - m = lo - m + k by omega]

/-- A slice of the low part of a concatenation. -/
theorem extract_append_low {n m lo len : Nat} (a : BitVec n) (b : BitVec m) (h : lo + len ≤ m) :
    (a ++ b).extractLsb' lo len = b.extractLsb' lo len := by
  ext k hk
  simp only [BitVec.getElem_extractLsb', BitVec.getLsbD_append]
  rw [if_pos (by omega)]

theorem extract_full {n : Nat} (a : BitVec n) : a.extractLsb' 0 n = a := by
  ext k hk
  simp

/-- Two neighbouring slices put together are the slice over both. -/
theorem extract_join (w : Word) (lo n m : Nat) :
    (w.extractLsb' (lo + m) n ++ w.extractLsb' lo m : BitVec (n + m)) = w.extractLsb' lo (n + m) := by
  ext k hk
  simp only [BitVec.getElem_append, BitVec.getElem_extractLsb']
  split
  · rfl
  · rw [show lo + m + (k - m) = lo + k by omega]

/-- The opcode byte of an encoded instruction. -/
theorem field_encode_opcode (i : Instr) : field (encode i) 24 8 = i.opcode.code := by
  rw [field, encode, extract_append_high _ _ (le_refl 24), Nat.sub_self, extract_full]

/-- The operand bits of an encoded instruction. -/
theorem field_encode_params (i : Instr) {lo len : Nat} (h : lo + len ≤ 24) :
    field (encode i) lo len = i.params.extractLsb' lo len := extract_append_low _ _ h

end Sys2Proof
end

