-- ==== Sys2Proof/Laws/PerInstr.lean ====
section
/-! SUPPORT. A fact about every instruction as syntax, one lemma for each constructor: the opcode byte of its word is its own
(spec/30_encoding.md R62). -/

namespace Sys2Proof.Laws.OpcodeByte

/-- The opcode byte `W[31:24]` of the instruction's word names the instruction's opcode. -/
def Statement (i : Instr) : Prop := opcodeOf (field (encode i) 24 8) = some i.opcode

theorem of_opcode (i : Instr) : Statement i := by rw [Statement, field_encode_opcode, opcodeOf_code]

theorem setrwc (clearAbVld : BitVec 2) (rwcCr rwcD rwcB rwcA : BitVec 4) (bitMask : BitVec 6) :
    Statement (.setrwc clearAbVld rwcCr rwcD rwcB rwcA bitMask) := of_opcode _

theorem incrwc (rwcCr : BitVec 6) (rwcD rwcB rwcA : BitVec 4) :
    Statement (.incrwc rwcCr rwcD rwcB rwcA) := of_opcode _

theorem mvmul (clearDvalid : BitVec 2) (instrMod19 : BitVec 3) (addrMode : BitVec 5) (dst : BitVec 14) :
    Statement (.mvmul clearDvalid instrMod19 addrMode dst) := of_opcode _

theorem elwadd (clearDvalid : BitVec 2) (destAccumEn : BitVec 1) (broadcast : Bool) (broadcastCol : BitVec 1) (addrMode : BitVec 5) (dst : BitVec 14) :
    Statement (.elwadd clearDvalid destAccumEn broadcast broadcastCol addrMode dst) := of_opcode _

theorem sfpload (lregInd instrMod0 : BitVec 4) (addrMode : BitVec 3) (imm10 : BitVec 10) :
    Statement (.sfpload lregInd instrMod0 addrMode imm10) := of_opcode _

theorem sfpstore (lregInd instrMod0 : BitVec 4) (addrMode : BitVec 3) (imm10 : BitVec 10) :
    Statement (.sfpstore lregInd instrMod0 addrMode imm10) := of_opcode _

theorem setadc (cntSetMask : BitVec 3) (channel : Channel) (xyzw : Dim) (newValue : BitVec 18) :
    Statement (.setadc cntSetMask channel xyzw newValue) := of_opcode _

theorem setadcxy (cntSetMask y1Val x1Val y0Val x0Val : BitVec 3) (bitMask : BitVec 4) :
    Statement (.setadcxy cntSetMask y1Val x1Val y0Val x0Val bitMask) := of_opcode _

theorem setadczw (cntSetMask w1Val z1Val w0Val z0Val : BitVec 3) (bitMask : BitVec 4) :
    Statement (.setadczw cntSetMask w1Val z1Val w0Val z0Val bitMask) := of_opcode _

theorem setadcxx (cntSetMask : BitVec 3) (x1Val x0Val : BitVec 10) :
    Statement (.setadcxx cntSetMask x1Val x0Val) := of_opcode _

theorem incadcxy (cntSetMask y1Inc x1Inc y0Inc x0Inc : BitVec 3) :
    Statement (.incadcxy cntSetMask y1Inc x1Inc y0Inc x0Inc) := of_opcode _

theorem incadczw (cntSetMask w1Inc z1Inc w0Inc z0Inc : BitVec 3) :
    Statement (.incadczw cntSetMask w1Inc z1Inc w0Inc z0Inc) := of_opcode _

theorem setc16 (addr32 : BitVec 8) (value : CfgWord) :
    Statement (.setc16 addr32 value) := of_opcode _

theorem replay (params : BitVec 24) :
    Statement (.replay params) := of_opcode _

theorem mop (params : BitVec 24) :
    Statement (.mop params) := of_opcode _

theorem unpacr (params : BitVec 24) :
    Statement (.unpacr params) := of_opcode _

theorem pacr (params : BitVec 24) :
    Statement (.pacr params) := of_opcode _

end Sys2Proof.Laws.OpcodeByte
end

