-- ==== Sys2Proof/Tests/Slice0.lean ====
section
/-! SUPPORT. Tests: ill-formed terms, decoded words written out from spec/30_encoding.md, one step of each instruction with the
result that the spec's worked examples and vectors give, and a witness for each statement that has hypotheses. -/

namespace Sys2Proof.Tests

open Sys2Proof Sys2Proof.Machine

/- Ill-formed terms, one for each check of WellFormed (R75). -/

theorem test_wf_setrwc : Instr.wf (.setrwc 0 0 0 0 0 15) = true := by decide

theorem test_wf_refuses_setrwc_mask_bit4 : Instr.wf (.setrwc 0 0 0 0 0 0x1f) = false := by decide

theorem test_wf_refuses_incrwc_padding : Instr.wf (.incrwc 8 0 0 0) = false := by decide

theorem test_wf_refuses_mvmul_addr_mode_8 : Instr.wf (.mvmul 0 0 8 0) = false := by decide

theorem test_wf_refuses_mvmul_second_operand : Instr.wf (.mvmul 0 4 0 0) = false := by decide

/-- R78: SETC16 has no word. -/
theorem test_wf_refuses_setc16 : Instr.wf (.setc16 12 0x0800) = false := by decide

theorem test_wf_refuses_elwadd_addr_mode_31 : Instr.wf (.elwadd 0 0 false 0 31 0) = false := by decide

/- Decoded words: opcode byte, then the fields from bit 23 down. -/

/-- R63: 0x37 | 10 | 0101 | 0011 | 0010 | 1001 | 001111. -/
theorem test_decode_setrwc :
    (decode 0b00110111_10_0101_0011_0010_1001_001111#32).toOption = some (.setrwc 2 5 3 2 9 15) := by decide

/-- R64 and V28: `INCRWC(1,2,3,4)` is `38048d00`. -/
theorem test_decode_incrwc : (decode 0b00111000_000001_0010_0011_0100_000000#32).toOption = some (.incrwc 1 2 3 4) := by decide

/-- R65: 0x26 | 01 | 000 | 00101 | 00000000000111. -/
theorem test_decode_mvmul : (decode 0b00100110_01_000_00101_00000000000111#32).toOption = some (.mvmul 1 0 5 7) := by decide

/-- R72, layout of log 9: 0x28 | 10 | 1 | 1 | 0 | 00011 | 00000000001001. -/
theorem test_decode_elwadd :
    (decode 0b00101000_10_1_1_0_00011_00000000001001#32).toOption = some (.elwadd 2 1 true 0 3 9) := by decide

/-- R72, layout of log 10: 0x70 | 0011 | 0101 | 110 | 000 | 0000000110. -/
theorem test_decode_sfpload : (decode 0b01110000_0011_0101_110_000_0000000110#32).toOption = some (.sfpload 3 5 6 6) := by decide

/-- R72, layout of log 10: 0x72 | 0001 | 0000 | 010 | 000 | 1000000000. -/
theorem test_decode_sfpstore : (decode 0b01110010_0001_0000_010_000_1000000000#32).toOption = some (.sfpstore 1 0 2 512) := by decide

/-- R68: 0x50 | 100 | 1 | 01 | 01 0000001000000011. -/
theorem test_decode_setadc :
    (decode 0b01010000_100_1_01_010000001000000011#32).toOption = some (.setadc 4 .ch1 .y 0x10203) := by decide

/-- R66: 0x51 | 011 | 000 | 001 | 010 | 011 | 100 | 00 | 1011. -/
theorem test_decode_setadcxy :
    (decode 0b01010001_011_000_001_010_011_100_00_1011#32).toOption = some (.setadcxy 3 1 2 3 4 11) := by decide

/-- R67: 0x54 | 001 | 000 | 101 | 110 | 111 | 001 | 00 | 0110. -/
theorem test_decode_setadczw :
    (decode 0b01010100_001_000_101_110_111_001_00_0110#32).toOption = some (.setadczw 1 5 6 7 1 6) := by decide

/-- R69: 0x5e | 011 | 0 | 0011111111 | 0000000001. -/
theorem test_decode_setadcxx :
    (decode 0b01011110_011_0_0011111111_0000000001#32).toOption = some (.setadcxx 3 255 1) := by decide

/-- R70: 0x52 | 100 | 000 | 001 | 010 | 011 | 100 | 000000. -/
theorem test_decode_incadcxy :
    (decode 0b01010010_100_000_001_010_011_100_000000#32).toOption = some (.incadcxy 4 1 2 3 4) := by decide

/-- R71: 0x55 | 010 | 000 | 111 | 110 | 101 | 100 | 000000. -/
theorem test_decode_incadczw :
    (decode 0b01010101_010_000_111_110_101_100_000000#32).toOption = some (.incadczw 2 7 6 5 4) := by decide

/-- R78, U15: opcode 0xb2, refused by name. -/
theorem test_reject_setc16_word : decode 0xb20c0800#32 = .error .setc16Word := by rfl

/-- R78: opcode 0x04. -/
theorem test_decode_replay : (decode 0x04000001#32).toOption = some (.replay 1) := by decide

/-- R78: opcode 0x01. -/
theorem test_decode_mop : (decode 0x01800000#32).toOption = some (.mop 0x800000) := by decide

/-- R78: opcode 0x42. -/
theorem test_decode_unpacr : (decode 0x42ffffff#32).toOption = some (.unpacr 0xffffff) := by decide

/-- R78: opcode 0x41. -/
theorem test_decode_pacr : (decode 0x41000010#32).toOption = some (.pacr 16) := by decide

/-- T4, V28: stream words and the vectors' own W and S. -/
theorem test_stream_words :
    toStream 0x37040241#32 = 0xdc100904#32 ∧ toStream 0x5180000b#32 = 0x4600002d#32 ∧ ofStream 0x5200003d#32 = 0x5480000f#32 := by
  decide

theorem test_encode_setrwc_v14 : encode (.setrwc 3 15 15 15 15 15) = 0x37ffffcf#32 := by decide

theorem test_reject_setrwc_bit4 : decode 0x3700001f#32 = .error .setrwcBitMask := by rfl

theorem test_reject_incrwc_padding : decode 0x38200000#32 = .error .incrwcPadding := by rfl

theorem test_reject_incrwc_low_bits : decode 0x38000001#32 = .error .incrwcLowBits := by rfl

theorem test_reject_mvmul_addr_mode_8 : decode 0x26020000#32 = .error .addrModeTooLarge := by rfl

/-- D12: W[21:19], its least and its greatest bit. -/
theorem test_reject_mvmul_second_operand :
    decode 0x26080000#32 = .error .mvmulSecondOperand ∧ decode 0x26200000#32 = .error .mvmulSecondOperand := ⟨rfl, rfl⟩

theorem test_reject_sfpload_bit10 : decode 0x70000400#32 = .error .sfpUnassignedBits := by rfl

theorem test_reject_setadcxx_bit20 : decode 0x5e100000#32 = .error .adcUnassignedBits := by rfl

theorem test_reject_opcode_zero : decode 0x00000000#32 = .error .unknownOpcode := by rfl

/- Small states and projections of one step. -/

/-- Thread 1 (math) issues; its RWC record is `r`; section `index` of its configuration holds the three words. -/
def mathState (r : Rwc) (index : Nat) (ab dst bias : CfgWord) : State :=
  { State.reset with
    currentThread := .t1
    rwc := PerThread.all r
    threadConfig := PerThread.all
      { words := (((Cells.write [] (12 + index) ab).write (28 + index) dst).write (47 + index) bias)
        addrModSetBase := false
        mathOffset := 0 } }

/-- A record `A=a(acr) B=b(bcr) D=d(dcr) F=f X=x` in the notation of spec/95_test_vectors.md. -/
def counters (a acr b bcr : BitVec 6) (d dcr : BitVec 10) (f : BitVec 2) (x : BitVec 1) : Rwc :=
  { dst := d, dstCr := dcr, srcA := a, srcACr := acr, srcB := b, srcBCr := bcr, fidelityPhase := f, extraAddrModBit := x }

/-- Thread 2 (pack) issues; every ADC channel of every thread is `c`. -/
def packState (c : AdcChannel) : State :=
  { State.reset with
    currentThread := .t2
    adc := PerThread.all
      { unpacker0 := { channel0 := c, channel1 := c }
        unpacker1 := { channel0 := c, channel1 := c }
        packers := { channel0 := c, channel1 := c } } }

/-- A projection of the next state, if there is one. -/
def after {α : Type} (i : Instr) (s : State) (f : State → α) : Option α :=
  match exec i s with
  | .next s' => some (f s')
  | .fault _ => none
  | .refused _ => none

/-- The issuing thread's RWC record after an instruction. -/
def rwcAfter (i : Instr) (s : State) : Option Rwc := after i s (fun s' => s'.rwc.get s.currentThread)

/-- The effects after an instruction. -/
def effectsAfter (i : Instr) (s : State) : Option (List Effect) := after i s (fun s' => s'.effects.map Event.effect)

/- One step of each instruction. -/

/-- V3. -/
theorem test_setrwc_cr_a_wraps :
    rwcAfter (.setrwc 0 1 0 0 9 1) (mathState (counters 10 60 5 5 1000 1020 3 0) 0 0 0 0) = some (counters 5 5 5 5 1000 1020 3 0) := by
  decide

/-- V14 and its bank effects. -/
theorem test_setrwc_all_flags :
    let s := mathState (counters 1 2 3 4 500 600 3 1) 0 0 0 0
    rwcAfter (.setrwc 3 15 15 15 15 15) s = some (counters 17 17 19 19 515 515 0 1)
      ∧ effectsAfter (.setrwc 3 15 15 15 15 15) s = some [.releaseSrcaBank, .flipSrcaBank, .releaseSrcbBank, .flipSrcbBank] := by
  decide

/-- V26. -/
theorem test_incrwc_mixed_flags :
    rwcAfter (.incrwc 5 15 4 2) (mathState (counters 62 32 40 32 1020 0 2 1) 0 0 0 0) = some (counters 34 34 44 32 15 15 2 1) := by
  decide

/-- V27. -/
theorem test_incrwc_checkpoint_wraps :
    rwcAfter (.incrwc 2 1 15 15) (mathState (counters 0 0 1 63 0 0 0 0) 0 0 0 0) = some (counters 15 0 14 14 1 0 0 0) := by
  decide

/-- Row 8 of T1. -/
theorem test_mvmul_trace_row_8 :
    let s := mathState (counters 16 0 40 32 56 0 0 0) 4 0x7060 0x0400 0
    rwcAfter (.mvmul 0 0 4 0) s = some (counters 32 32 16 16 0 0 0 0)
      ∧ effectsAfter (.mvmul 0 0 4 0) s = some [.matrixRows (.block 16 16) (.block 40 8) (.block 56 8)] := by
  decide

/-- V67 and D19: SrcA rows 56..71 are not defined, the counters advance. -/
theorem test_mvmul_past_last_row :
    let s := mathState (counters 63 0 7 0 7 0 0 0) 0 0x0108 0x2008 0
    rwcAfter (.mvmul 1 0 0 0) s = some (counters 7 0 8 0 15 0 1 0)
      ∧ effectsAfter (.mvmul 1 0 0 0) s = some [.matrixRows .noDefinedRows (.block 0 8) (.block 0 8), .clearDvalid 1] := by
  decide

/-- R93's worked example, without and with broadcast. -/
theorem test_elwadd_rows :
    let s := mathState (counters 13 0 13 0 13 0 0 0) 0 0 0 0
    effectsAfter (.elwadd 0 0 false 0 0 0) s = some [.matrixRows (.block 8 8) (.block 8 8) (.block 8 8)]
      ∧ effectsAfter (.elwadd 0 0 true 0 0 0) s = some [.matrixRows (.block 8 8) (.startingAt 13) (.block 8 8)] := by
  decide

/-- V30 through ELWADD, which updates FidelityPhase (R94). -/
theorem test_elwadd_counters_wrap :
    rwcAfter (.elwadd 0 0 false 0 3 0) (mathState (counters 60 7 63 0 1020 5 3 0) 3 0x0108 0x2008 0) = some (counters 4 7 0 0 4 5 0 0) := by
  decide

/-- R97's worked example: FidelityPhase is kept. -/
theorem test_sfpload_keeps_fidelity :
    rwcAfter (.sfpload 0 0 0 6) (mathState (counters 0 0 0 0 64 0 2 0) 0 0 0x2004 0) = some (counters 0 0 0 0 68 0 2 0) := by
  decide

/-- R95's worked example: lane 9 reads Dst[69][3]. -/
theorem test_sfpload_lane_9 :
    (laneCells ((mathState (counters 0 0 0 0 64 0 2 0) 0 0 0 0).sfpAddr 6) false)[9]? = some { row := 69, column := 3 } := by
  decide

/-- R96's worked example: lanes 0, 7, 8 and 31. -/
theorem test_sfpstore_lanes :
    (after (.sfpstore 0 0 0 0) (mathState (counters 0 0 0 0 0 0 0 0) 0 0 0 0)
        (fun s' => match s'.effects with
          | [{ effect := .laneStores cells, .. }] => [cells[0]?, cells[7]?, cells[8]?, cells[31]?]
          | _ => []))
      = some [some { row := 0, column := 0 }, some { row := 0, column := 14 }, some { row := 1, column := 0 },
          some { row := 3, column := 14 }] := by
  decide

/-- V43 through SFPSTORE: the partial form ignores FidelityClear. -/
theorem test_sfpstore_keeps_fidelity :
    rwcAfter (.sfpstore 0 0 0 0) (mathState (counters 0 0 0 0 64 0 2 0) 0 0 0x8004 0) = some (counters 0 0 0 0 68 0 2 0) := by
  decide

/-- R162's worked example, and the checkpoint. -/
theorem test_setadc_y :
    after (.setadc 4 .ch1 .y 0x0203) (packState AdcChannel.zero)
      (fun s' => (s'.adc.t2.packers.channel1.y, s'.adc.t2.packers.channel1.yCr, s'.adc.t2.packers.channel0.y, s'.adc.t1.packers.channel1.y))
        = some (0x203, 0x203, 0, 0) := by
  decide

/-- D15: ThreadOverride 1 selects thread 0, and a value wider than the counter is truncated. -/
theorem test_setadc_override :
    after (.setadc 1 .ch0 .z 0x1ffff) (packState AdcChannel.zero)
      (fun s' => (s'.adc.t0.unpacker0.channel0.z, s'.adc.t2.unpacker0.channel0.z)) = some (255, 0) := by
  decide

/-- R163's worked example from counters that are not zero: Channel[1].X is not written. -/
theorem test_setadcxy_keeps_channel1_x :
    after (.setadcxy 4 0 0 0 0 11) (packState { AdcChannel.zero with x := 9, y := 9, yCr := 9 })
      (fun s' => (s'.adc.t2.packers.channel0.x, s'.adc.t2.packers.channel0.y, s'.adc.t2.packers.channel1.x, s'.adc.t2.packers.channel1.yCr))
        = some (0, 0, 9, 0) := by
  decide

/-- R164's worked example from counters that are not zero, in the packers alone. -/
theorem test_setadczw_packers :
    after (.setadczw 4 0 0 0 0 15) (packState { AdcChannel.zero with z := 9, w := 9 })
      (fun s' => (s'.adc.t2.packers.channel0.z, s'.adc.t2.packers.channel1.w, s'.adc.t2.unpacker1.channel1.w)) = some (0, 0, 9) := by
  decide

/-- R165's worked example: the datum count is then 256. -/
theorem test_setadcxx_datum_count :
    after (.setadcxx 3 255 0) (packState AdcChannel.zero)
      (fun s' => (s'.adc.t2.unpacker0.channel1.x, s'.adc.t2.unpacker1.datumCount, s'.adc.t2.packers.channel1.x)) = some (255, 256, 0) := by
  decide

/-- R166's worked example, and the wrap of Y at 13 bits. -/
theorem test_incadcxy :
    after (.incadcxy 4 0 0 4 0) (packState { AdcChannel.zero with y := 3 })
        (fun s' => (s'.adc.t2.packers.channel0.y, s'.adc.t2.packers.channel0.yCr)) = some (7, 0)
      ∧ after (.incadcxy 4 0 0 1 0) (packState { AdcChannel.zero with y := 8191 }) (fun s' => s'.adc.t2.packers.channel0.y) = some 0 := by
  decide

/-- R167's worked example: Z wraps at 8 bits. -/
theorem test_incadczw :
    after (.incadczw 1 0 0 0 1) (packState { AdcChannel.zero with z := 255, w := 7 })
      (fun s' => (s'.adc.t2.unpacker0.channel0.z, s'.adc.t2.unpacker0.channel0.w)) = some (0, 7) := by
  decide

/-- R209: thread 1 writes the AB word of section 0, thread 0 keeps its own. -/
theorem test_setc16 :
    after (.setc16 12 0x0800) (mathState Rwc.zero 0 0 0 0) (fun s' => (s'.cfg16 .t1 12, s'.cfg16 .t0 12)) = some (0x0800, 0) := by
  decide

theorem test_replay_refused : exec (.replay 0) State.reset = .refused .replayNotDescribed := by rfl

theorem test_mop_refused : exec (.mop 0) State.reset = .refused .mopNotDescribed := by rfl

theorem test_unpacr_refused : exec (.unpacr 0) State.reset = .refused .unpacrNotDescribed := by rfl

theorem test_pacr_refused : exec (.pacr 0) State.reset = .refused .pacrNotDescribed := by rfl

/-- V54: addr_mode 6 in the upper bank. -/
theorem test_upper_bank_refused :
    exec (.mvmul 0 0 6 0) (mathState (counters 0 0 0 0 0 0 0 1) 0 0 0 0) = .refused .addrModeInUpperBank := by rfl

/-- A word placed where the next step fetches is the one that runs. -/
theorem test_fetch_word :
    (match step (State.reset.withFetchWord 32 0x38048d00) with
      | .next s' => some (s'.rwc.get s'.currentThread)
      | .fault _ => none
      | .refused _ => none) = some (counters 4 4 3 0 2 0 0 0) := by
  decide

/-- Nothing is loaded at reset, so the run has ended (log 2). -/
theorem test_reset_has_no_program : step State.reset = .fault .runEnded := by rfl

/- Witnesses: for each statement that has hypotheses, a state and operands that meet all of them. -/

/-- `DecodeOfEncodeIsTheInstruction`: the largest operands that the encoding admits. -/
theorem test_witness_wf : Instr.wf (.setrwc 3 15 15 15 15 15) = true ∧ Instr.wf (.incrwc 7 15 15 15) = true
    ∧ Instr.wf (.mvmul 3 0 7 0x3fff) = true ∧ Instr.wf (.elwadd 3 1 true 1 7 0x3fff) = true := by
  decide

/-- `DecodedWordsAreEncodings`. -/
theorem test_witness_decodes : decode 0x37ffffcf#32 = .ok (.setrwc 3 15 15 15 15 15) := by rfl

/-- `SetrwcFieldsOfItsWord`, at the least and the largest word. -/
theorem test_witness_setrwc_words :
    (0x37000000#32).toNat / 2 ^ 24 = 0x37 ∧ (0x37000000#32).toNat / 2 ^ 4 % 4 = 0
      ∧ (0x37ffffcf#32).toNat / 2 ^ 24 = 0x37 ∧ (0x37ffffcf#32).toNat / 2 ^ 4 % 4 = 0 := by
  decide

/-- The guards of `SetrwcSrcAStep` to `SetrwcBankStep` and of `IncrwcUpdatesTheCounters`, true and false. -/
theorem test_witness_mask_bits :
    MaskBit (1#6) 0 ∧ ¬ MaskBit (62#6) 0 ∧ MaskBit (8#6) 3 ∧ ¬ MaskBit (55#6) 3 ∧ (8#6).toNat / 4 % 4 ≠ 0 ∧ (51#6).toNat / 4 % 4 = 0
      ∧ MaskBit (12#4) 3 ∧ MaskBit (4#4) 2 ∧ ¬ MaskBit (4#4) 3 ∧ MaskBit (2#2) 1 ∧ ¬ MaskBit (1#2) 1 := by
  decide

/-- `RwcWritersFrame`, both clauses. -/
theorem test_witness_rwc_writers :
    (∃ s', exec (.setrwc 3 15 15 15 15 15) State.reset = .next s') ∧ ∃ s', exec (.incrwc 7 15 15 15) State.reset = .next s' :=
  ⟨⟨_, rfl⟩, _, rfl⟩

/-- A state in the lower bank and states in the upper bank, by each of the two ways of R131. -/
def lowerState : State := mathState (counters 0 0 0 0 0 0 0 0) 0 0x0080 0x0800 0x0010

def upperState : State := mathState (counters 0 0 0 0 0 0 0 1) 4 0x0040 0x1400 0x0003

def setBaseState : State :=
  { lowerState with threadConfig := PerThread.all { words := [], addrModSetBase := true, mathOffset := 0 } }

theorem test_witness_upper_selected : UpperSelected upperState ∧ UpperSelected setBaseState ∧ ¬ UpperSelected lowerState := by
  refine ⟨.inl rfl, .inr rfl, ?_⟩
  rintro (h | h)
  · exact absurd h (by decide)
  · exact absurd h (by decide)

/-- The consumers' statements (`ConsumerSrcAUpdate` to `ConsumerExtraBitUpdate`, `MvmulRows` to `SfpstoreWritesItsLaneCells`): the
least and the largest addr_mode of each bank, for each of the four consumers. -/
theorem test_witness_selects :
    addrModeUse (.mvmul 0 0 0 0) = some (0, true) ∧ SelectsSection lowerState 0 0
      ∧ addrModeUse (.elwadd 0 0 true 0 7 0) = some (7, true) ∧ SelectsSection lowerState 7 7
      ∧ addrModeUse (.sfpload 0 0 0 0) = some (0, false) ∧ SelectsSection upperState 0 4
      ∧ addrModeUse (.sfpstore 0 0 3 0) = some (3, false) ∧ SelectsSection setBaseState 3 7 :=
  ⟨rfl, (sectionIndex_iff ..).mp rfl, rfl, (sectionIndex_iff ..).mp rfl, rfl, (sectionIndex_iff ..).mp rfl, rfl,
    (sectionIndex_iff ..).mp rfl⟩

/-- The words behind the clauses of `ConsumerSrcAUpdate` to `ConsumerExtraBitUpdate`: Clear in section 0 of the one state, CR, CToCR
and a bias step in section 4 of the other. -/
theorem test_witness_descriptor_words :
    (lowerState.cfg16 .t1 12).toNat / 128 % 2 = 1 ∧ (lowerState.cfg16 .t1 28).toNat / 2 ^ 11 % 2 = 1
      ∧ (lowerState.cfg16 .t1 47).toNat / 16 % 2 = 1
      ∧ (upperState.cfg16 .t1 16).toNat / 128 % 2 = 0 ∧ (upperState.cfg16 .t1 16).toNat / 64 % 2 = 1
      ∧ (upperState.cfg16 .t1 32).toNat / 2 ^ 11 % 2 = 0 ∧ (upperState.cfg16 .t1 32).toNat / 2 ^ 12 % 2 = 1
      ∧ (upperState.cfg16 .t1 51).toNat / 16 % 2 = 0 ∧ (upperState.cfg16 .t1 51).toNat % 4 ≠ 0 := by
  decide

/-- `DestIncrIsSigned`, at the largest positive and at the least negative addend of magnitude 1. -/
theorem test_witness_dest_incr :
    addrModeUse (.mvmul 0 0 2 0) = some (2, true)
      ∧ SelectsSection (mathState Rwc.zero 2 0 0x01ff 0) 2 2
      ∧ ((mathState Rwc.zero 2 0 0x01ff 0).cfg16 .t1 (28 + 2)).toNat / 2 ^ 10 % 8 = 0
      ∧ SelectsSection (mathState Rwc.zero 2 0 0xe3ff 0) 2 2
      ∧ ((mathState Rwc.zero 2 0 0xe3ff 0).cfg16 .t1 (28 + 2)).toNat / 2 ^ 10 % 8 = 0 :=
  ⟨rfl, (sectionIndex_iff ..).mp rfl, by decide, (sectionIndex_iff ..).mp rfl, by decide⟩

/-- `UpperBankAddrModeRefused`, at 4 and at 7. -/
theorem test_witness_upper_bank :
    addrModeUse (.mvmul 0 0 4 0) = some (4, true) ∧ addrModeUse (.sfpstore 0 0 7 0) = some (7, false) ∧ UpperSelected upperState :=
  ⟨rfl, rfl, .inl rfl⟩

/-- `PartialFormSkipsFidelityOnly`. -/
theorem test_witness_partial_form :
    addrModeUse (.sfpload 0 0 0 0) = some (0, false) ∧ addrModeUse (.mvmul 0 0 0 0) = some (0, true)
      ∧ ∃ s', exec (.sfpload 0 0 0 0) lowerState = .next s' :=
  ⟨rfl, rfl, _, consume_of_selects ((sectionIndex_iff lowerState 0 0).mp rfl)⟩

/-- A state in which sections 3 and 7 clear ExtraAddrModBit. -/
def clearingState : State :=
  { lowerState with
    rwc := PerThread.all (counters 0 0 0 0 0 0 0 1)
    threadConfig := PerThread.all { words := [(50, 0x0010#16), (54, 0x0010#16)], addrModSetBase := false, mathOffset := 0 } }

/-- `BothBanksClearingDefinesExtraBit`. -/
theorem test_witness_both_banks :
    addrModeUse (.sfpload 0 0 3 0) = some (3, false) ∧ clearingState.cfg16 .t1 (47 + 3) = 0x0010#16
      ∧ clearingState.cfg16 .t1 (47 + (3 + 4)) = 0x0010#16 := by
  decide

/-- `MatrixInstructionsFrame`, `CheckpointsFormNoAddress`, `EffectsAreOnlyAppended`, `MemoryAndSourceFilesAreUntouched`. -/
theorem test_witness_matrix_frame :
    (∃ s', exec (.mvmul 3 7 0 0x3fff) lowerState = .next s') ∧ ∃ s', exec (.elwadd 0 1 true 1 3 0) upperState = .next s' :=
  ⟨⟨_, consume_of_selects ((sectionIndex_iff lowerState 0 0).mp rfl)⟩, _, consume_of_selects ((sectionIndex_iff upperState 3 7).mp rfl)⟩

/-- `SfpInstructionsFrame`, both clauses. -/
theorem test_witness_sfp_frame :
    (∃ s', exec (.sfpload 15 15 7 1023) lowerState = .next s') ∧ ∃ s', exec (.sfpstore 0 0 3 0) upperState = .next s' :=
  ⟨⟨_, consume_of_selects ((sectionIndex_iff lowerState 7 7).mp rfl)⟩, _, consume_of_selects ((sectionIndex_iff upperState 3 7).mp rfl)⟩

/-- The premise on Dst in `MvmulRows`, `ElwaddRows` and `SfpstoreWritesItsLaneCells`, with an empty Dst and with one element. -/
theorem test_witness_dst_canonical :
    Cells.wf lowerState.dst = true ∧ Cells.wf ({ lowerState with dst := [(16383, 1#16)] } : State).dst = true := by
  decide

/-- The lanes of `LaneMapRowsAndColumns` and of the two SFP statements: first and last, even and odd columns. -/
theorem test_witness_lanes :
    laneMap 0 false 0 = { row := 0, column := 0 } ∧ laneMap 0x3ff false 31 = { row := 1023, column := 15 }
      ∧ laneMap 0 true 31 = { row := 3, column := 15 } := by
  decide

/-- `AdcInstructionsFrame`: each of the six, and a ThreadOverride. -/
theorem test_witness_adc_targets :
    adcTarget .t1 (.setadc 7 .ch0 .x 0x30000) = some .t2 ∧ adcTarget .t1 (.setadc 7 .ch0 .x 0x0ffff) = some .t1
      ∧ adcTarget .t2 (.setadcxy 4 0 0 0 0 15) = some .t2 ∧ adcTarget .t2 (.setadczw 4 0 0 0 0 15) = some .t2
      ∧ adcTarget .t0 (.setadcxx 3 255 0) = some .t0 ∧ adcTarget .t0 (.incadcxy 1 7 7 7 7) = some .t0
      ∧ adcTarget .t0 (.incadczw 1 7 7 7 7) = some .t0 := by
  decide

/-- The clauses of `SetadcSetsOneCounter` to `IncadczwAddsToZAndW`: a selected unit and one that is not. -/
theorem test_witness_units : MaskBit (4#3) 2 ∧ ¬ MaskBit (4#3) 0 ∧ (0x30000#18).toNat / 2 ^ 16 = 3 ∧ threadNumber .t2 = 3 - 1 := by
  decide

/-- `Setc16WritesItsWord` and `Setc16Frame`: the words are canonical, and a SETC16 completes at an index of R14 and at another. -/
theorem test_witness_setc16 :
    Cells.wf (lowerState.threadConfig.get lowerState.currentThread).words = true
      ∧ (∃ s', exec (.setc16 12 0xffff) lowerState = .next s') ∧ (∃ s', exec (.setc16 54 0) lowerState = .next s')
      ∧ ∃ s', exec (.setc16 55 1) lowerState = .next s' :=
  ⟨by decide, ⟨_, rfl⟩, ⟨_, rfl⟩, _, rfl⟩

/-- `Setc16IsVisibleToTheNextConsumer`, with the first section and with the last. -/
theorem test_witness_setc16_visible :
    Cells.wf (lowerState.threadConfig.get lowerState.currentThread).words = true
      ∧ addrModeUse (.sfpload 0 0 0 0) = some (0, false) ∧ SelectsSection lowerState 0 0
      ∧ addrModeUse (.mvmul 0 0 7 0) = some (7, true) ∧ SelectsSection lowerState 7 7 :=
  ⟨by decide, rfl, (sectionIndex_iff ..).mp rfl, rfl, (sectionIndex_iff ..).mp rfl⟩

/-- R48: a SETC16 of thread 1 to an unlisted index moves the draw index of thread 1 and no other. -/
theorem test_setc16_draws_its_own_index :
    after (.setc16 55 1) lowerState (fun s' => (s'.configIndex, s'.freeIndex)) = some ({ t0 := 0, t1 := 1, t2 := 0 }, 0) := by
  decide

/-- `DatumCountOfOrderedCounters`, at equal counters. -/
theorem test_witness_datum_count : AdcUnit.zero.channel0.x.toNat ≤ AdcUnit.zero.channel1.x.toNat ∧ AdcUnit.zero.datumCount = 1 := by
  decide

/-- `PackerDatumIndexUnderALowMask`, with no bit masked and with every bit masked. -/
theorem test_witness_packer_mask :
    let s : State := { State.reset with config := { ConfigState.zero with adcXMask := 0xffffffff } }
    State.reset.config.adcXMask = 2 ^ 0 - 1 ∧ 0 < State.reset.config.bytesPerDatum
      ∧ s.config.adcXMask = 2 ^ 32 - 1 ∧ 0 < s.config.bytesPerDatum := by
  decide

/-- Two threads, each with a SETRWC to run, in the order 0, 1. -/
def loadedState : State :=
  { State.reset with
    sequences := PerThread.all { entries := [.word 0x37000241#32, .word 0x3700000f#32], position := 0 }
    schedule := [.t0, .t1] }

/-- Thread 1 is scheduled, and a SETC16 in abstract form stands next in its sequence. -/
def configuringState : State :=
  { State.reset with sequences := PerThread.all { entries := [.cfg16 12 0x0800], position := 0 }, schedule := [.t1] }

/-- The first configuration write of the trace T1, `Cfg16(1,12) <- 0x0800`, as a step. -/
theorem test_step_cfg16 :
    (match step configuringState with
      | .next s' => some (s'.cfg16 .t1 12, s'.cfg16 .t0 12, (s'.sequences.get .t1).position)
      | .fault _ => none
      | .refused _ => none) = some (0x0800, 0, 1) := by
  decide

/-- `StepRunsTheDecodedInstruction`, its two forms. -/
theorem test_witness_step_runs :
    loadedState.schedule = [.t0, .t1]
      ∧ (loadedState.sequences.get .t0).entries[(loadedState.sequences.get .t0).position]? = some (.word 0x37000241#32)
      ∧ decode 0x37000241#32 = .ok (.setrwc 0 0 0 0 9 1)
      ∧ configuringState.schedule = [.t1]
      ∧ (configuringState.sequences.get .t1).entries[(configuringState.sequences.get .t1).position]? = some (.cfg16 12 0x0800) :=
  ⟨rfl, rfl, rfl, rfl, rfl⟩

/-- `NamedOnlyInstructionsStop`: the least and the greatest SETC16 word. -/
theorem test_witness_setc16_words : (0xb2000000#32).toNat / 2 ^ 24 = 0xb2 ∧ (0xb2ffffff#32).toNat / 2 ^ 24 = 0xb2 := by decide

/-- Thread 2 is scheduled and has issued all its instructions. -/
def endedState : State := { loadedState with schedule := [.t2], sequences := PerThread.all { entries := [.word 0x37000241#32], position := 1 } }

/-- Thread 2 is scheduled and its next word has no instruction. -/
def undecodableState : State := { loadedState with schedule := [.t2], sequences := PerThread.all { entries := [.word 0#32], position := 0 } }

/-- `StepStopsWithoutAnInstruction`, its three clauses. -/
theorem test_witness_step_stops :
    State.reset.schedule = []
      ∧ endedState.schedule = [.t2] ∧ (endedState.sequences.get .t2).entries.length ≤ (endedState.sequences.get .t2).position
      ∧ undecodableState.schedule = [.t2]
      ∧ (undecodableState.sequences.get .t2).entries[(undecodableState.sequences.get .t2).position]? = some (.word 0#32)
      ∧ decode 0#32 = .error .unknownOpcode :=
  ⟨rfl, rfl, by decide, rfl, rfl, rfl⟩

/-- `StepAdvancesTheIssuingThreadOnly`, `StepKeepsTheInvariant`, `NoCrossThreadRwcAccess`: a step completes. -/
theorem test_witness_step : Completes loadedState ∧ (.t1 : ThreadId) ≠ .t0 := ⟨⟨_, rfl⟩, by decide⟩

/-- `StepKeepsTheInvariant`: that state meets the invariant. -/
theorem test_witness_inv : loadedState.Inv :=
  ⟨by decide, by decide, by decide, by decide, by decide, by decide, by decide, by intro t; cases t <;> decide,
    by intro t; cases t <;> decide, by intro t; cases t <;> decide, by decide⟩

/-- `RwcResultDependsOnItsOwnThread`: two states that differ in another thread's record. -/
theorem test_witness_own_thread :
    let s₁ := lowerState
    let s₂ := { lowerState with rwc := lowerState.rwc.set .t0 (counters 1 2 3 4 5 6 1 1) }
    s₁.currentThread = s₂.currentThread ∧ s₁.rwc.get s₁.currentThread = s₂.rwc.get s₁.currentThread
      ∧ (s₁.threadConfig.get s₁.currentThread).words = (s₂.threadConfig.get s₁.currentThread).words
      ∧ (s₁.threadConfig.get s₁.currentThread).addrModSetBase = (s₂.threadConfig.get s₁.currentThread).addrModSetBase
      ∧ s₁.rwc ≠ s₂.rwc ∧ ∃ s₁', exec (.mvmul 0 0 0 0) s₁ = .next s₁' :=
  ⟨rfl, rfl, rfl, rfl, by decide, _, consume_of_selects ((sectionIndex_iff lowerState 0 0).mp rfl)⟩

/-- `ThreadsCommuteOnRwcState`: a SETRWC of thread 0, then an MVMUL of thread 1. -/
theorem test_witness_commute :
    (.t0 : ThreadId) ≠ .t1 ∧ ∃ s₁ s₂, exec (.setrwc 0 0 0 0 9 1) (lowerState.asThread .t0) = .next s₁
      ∧ exec (.mvmul 0 0 0 0) (s₁.asThread .t1) = .next s₂ :=
  ⟨by decide, _, _, rfl, consume_of_selects ((sectionIndex_iff _ 0 0).mp rfl)⟩

/-- `InterleavingsLeaveTheSameRwcRecords`: two orders of three turns, of which the first completes. -/
theorem test_witness_interleavings :
    [ThreadId.t0, .t1, .t0].Perm [ThreadId.t0, .t0, .t1]
      ∧ ∃ s₁, Sys2Proof.core.run 3 { loadedState with schedule := [.t0, .t1, .t0] } = .next s₁ :=
  ⟨by decide, _, rfl⟩

/-- `OnlyAdcInstructionsWriteAdcs`: a record that changes. -/
theorem test_witness_adc_changes :
    after (.incadczw 1 0 0 0 1) (packState AdcChannel.zero) (fun s' => decide (s'.adc.get .t2 ≠ (packState AdcChannel.zero).adc.get .t2))
      = some true := by
  decide

/-- `WritersOfFidelityAndExtraBit`: FidelityPhase changes by a SETRWC and by an MVMUL, ExtraAddrModBit by an SFPLOAD. -/
theorem test_witness_fidelity_changes :
    rwcAfter (.setrwc 0 0 0 0 0 8) (mathState (counters 0 0 0 0 0 0 3 0) 0 0 0 0) = some (counters 0 0 0 0 0 0 0 0)
      ∧ rwcAfter (.mvmul 0 0 0 0) (mathState (counters 0 0 0 0 0 0 3 0) 0 0 0x6000 0) = some (counters 0 0 0 0 0 0 2 0)
      ∧ rwcAfter (.sfpload 0 0 0 0) (mathState (counters 0 0 0 0 0 0 3 0) 0 0 0x6000 1) = some (counters 0 0 0 0 0 0 3 1) := by
  decide

end Sys2Proof.Tests
end

/-! Encoding (spec/30_encoding.md): a word's fields as numbers, the fields of its stream word, and the decoder one opcode byte at
a time. -/

namespace Sys2Proof.Encoding

open Sys2Proof.Machine

/-- A field is read as a number by a division and a remainder. -/
theorem field_toNat (w : Word) (lo len : Nat) : (field w lo len).toNat = w.toNat / 2 ^ lo % 2 ^ len := by
  rw [field, BitVec.extractLsb'_toNat, Nat.shiftRight_eq_div_pow]

/-- The opcode byte is the quotient by `2 ^ 24`: nothing stands above it. -/
theorem field_opcode_eq_iff (w : Word) (b : BitVec 8) : field w 24 8 = b ↔ w.toNat / 2 ^ 24 = b.toNat := by
  rw [← BitVec.toNat_inj, field_toNat, Nat.mod_eq_of_lt (by have := w.isLt; omega)]

/-- A field that lies below `W[31:30]` stands two bits higher in the stream word (R61). -/
theorem field_toStream (w : Word) {lo len : Nat} (h : lo + len ≤ 30) : field (toStream w) (lo + 2) len = field w lo len := by
  ext k hk
  have hsrc : lo + 2 + k - 2 % 32 = lo + k := by omega
  have hrot : ¬ lo + 2 + k < 2 % 32 := by omega
  have hword : lo + 2 + k < 32 := by omega
  simp only [field, toStream, BitVec.getElem_extractLsb', BitVec.getLsbD_rotateLeft, hsrc, hrot, hword, decide_false, decide_true,
    cond_false, Bool.true_and]

/-- The same as numbers: the field of the word is a quotient of its stream word. -/
theorem field_toNat_toStream (w : Word) {lo len : Nat} (h : lo + len ≤ 30) :
    (field w lo len).toNat = (toStream w).toNat / 2 ^ (lo + 2) % 2 ^ len := by
  rw [← field_toStream w h, field_toNat]

/-- The stream word as a number: `W[31:30]` comes out at the low end (R61). -/
theorem toStream_toNat (w : Word) : (toStream w).toNat = w.toNat % 2 ^ 30 * 4 + w.toNat / 2 ^ 30 := by
  have hhigh : w.toNat / 2 ^ 30 < 2 ^ 2 := by have := w.isLt; omega
  have hshift : w.toNat * 2 ^ 2 % 2 ^ 32 = w.toNat % 2 ^ 30 * 2 ^ 2 := Nat.mul_mod_mul_right (2 ^ 2) w.toNat (2 ^ 30)
  rw [toStream, BitVec.toNat_rotateLeft, Nat.shiftLeft_eq, Nat.shiftRight_eq_div_pow, hshift, ← Nat.shiftLeft_eq,
    ← Nat.shiftLeft_add_eq_or_of_lt hhigh, Nat.shiftLeft_eq]

/-- The opcode byte selects the format by which the decoder reads the operands. -/
theorem decode_of_opcode {w : Word} (o : Opcode) (h : w.toNat / 2 ^ 24 = o.code.toNat) : decode w = operandsOf o w := by
  rw [decode, (field_opcode_eq_iff w o.code).mpr h, opcodeOf_code]

/-- A SETRWC word with `W[5:4] = 0` decodes to its fields (R63). -/
theorem decode_setrwc {w : Word} (hop : w.toNat / 2 ^ 24 = 0x37) (hzero : w.toNat / 2 ^ 4 % 4 = 0) :
    decode w = .ok (.setrwc (field w 22 2) (field w 18 4) (field w 14 4) (field w 10 4) (field w 6 4) (field w 0 6)) := by
  have hbits : field w 4 2 = 0#2 := BitVec.eq_of_toNat_eq ((field_toNat w 4 2).trans hzero)
  rw [decode_of_opcode .setrwc hop]
  exact requireZero_eq_ok.mpr ⟨hbits, rfl⟩

/-- Settles O3: the decoder reads the fields at their W bits, and the rotation moves each two bits up. -/
theorem setrwcFieldsOfItsWord : Obligations.SetrwcFieldsOfItsWord := by
  unfold Obligations.SetrwcFieldsOfItsWord
  intro w hop hzero
  have hstream := toStream_toNat w
  have htop : w.toNat / 2 ^ 30 = 0 := by omega
  refine ⟨_, _, _, _, _, _, decode_setrwc hop hzero, field_toNat w 22 2, field_toNat w 18 4, field_toNat w 14 4,
    field_toNat w 10 4, field_toNat w 6 4, ?bitMask, ?opcodeInStream, ?lowBitsOfStream,
    field_toNat_toStream w (by decide), field_toNat_toStream w (by decide), field_toNat_toStream w (by decide),
    field_toNat_toStream w (by decide), field_toNat_toStream w (by decide), field_toNat_toStream w (by decide)⟩
  case bitMask => simpa using field_toNat w 0 6
  case opcodeInStream => omega
  case lowBitsOfStream => omega

/-- Settles O46: the four named-only arms refuse whatever their operands, and SETC16's opcode byte selects a format that is an
error. -/
theorem namedOnlyInstructionsStop : Obligations.NamedOnlyInstructionsStop := by
  unfold Obligations.NamedOnlyInstructionsStop
  refine ⟨fun params s => ⟨rfl, rfl, rfl, rfl⟩, fun w hop => ?_⟩
  rw [decode_of_opcode .setc16 hop, operandsOf]

end Sys2Proof.Encoding

/-! The RWC consumers (spec/40_rwc_consumers.md): the Dst cells of the 32 lanes, rows and columns as numbers. -/

namespace Sys2Proof.Consumers

open Sys2Proof.Machine

/-- Four rows from an aligned row never wrap: the row of a lane is a plain sum (R98). -/
theorem laneMap_row_toNat (addr : BitVec 10) (exchange : Bool) {lane : Nat} (h : lane < 32) :
    (laneMap addr exchange lane).row.toNat = addr.toNat / 4 * 4 + lane / 8 := by
  have haddr := addr.isLt
  rw [laneMap, BitVec.toNat_add, and_3fc_toNat, BitVec.toNat_ofNat]
  omega

/-- The even column of a lane leaves its low bit free for `Addr[1]` or the exchange: no carry, whatever the lane (R98). -/
theorem laneMap_column_toNat (addr : BitVec 10) (exchange : Bool) (lane : Nat) :
    (laneMap addr exchange lane).column.toNat
      = lane % 8 * 2 + (if addr.toNat / 2 % 2 = 1 ∨ exchange = true then 1 else 0) := by
  have hodd : (addr.getLsbD 1 || exchange) = true ↔ addr.toNat / 2 % 2 = 1 ∨ exchange = true := by
    rw [getLsbD_eq_maskBit, Bool.or_eq_true, decide_eq_true_iff, MaskBit, pow_one]
  simp only [laneMap, hodd, BitVec.toNat_add, BitVec.toNat_ofNat]
  split <;> rw [BitVec.toNat_ofNat] <;> omega

/-- Settles O28: the row and the column of a lane are each a sum that does not wrap. -/
theorem laneMapRowsAndColumns : Obligations.LaneMapRowsAndColumns := by
  unfold Obligations.LaneMapRowsAndColumns
  intro addr exchange lane hlane
  exact ⟨laneMap_row_toNat addr exchange hlane, laneMap_column_toNat addr exchange lane⟩

end Sys2Proof.Consumers

/-! SETRWC and INCRWC (spec/41_setrwc_incrwc.md): the RWC record that each leaves, and its counter pairs as numbers. -/

namespace Sys2Proof.RwcWriters

open Sys2Proof.Machine

/-- SETRWC completes, and its four RWC steps run on the issuing thread's record in the order of R110. -/
theorem setrwc_next (clearAbVld : BitVec 2) (rwcCr rwcD rwcB rwcA : BitVec 4) (bitMask : BitVec 6) (s : State) :
    ∃ s', exec (.setrwc clearAbVld rwcCr rwcD rwcB rwcA bitMask) s = .next s'
      ∧ s'.rwc.get s.currentThread
        = ((((s.rwc.get s.currentThread).setSrcA bitMask rwcCr rwcA).setSrcB bitMask rwcCr rwcB).setDst bitMask rwcCr rwcD).setFidelity
            bitMask :=
  ⟨_, rfl, PerThread.get_set_same ..⟩

/-- INCRWC completes, and its three updates run on the issuing thread's record in the order of R120. -/
theorem incrwc_next (rwcCr : BitVec 6) (rwcD rwcB rwcA : BitVec 4) (s : State) :
    ∃ s', exec (.incrwc rwcCr rwcD rwcB rwcA) s = .next s'
      ∧ s'.rwc.get s.currentThread
        = (((s.rwc.get s.currentThread).incSrcA rwcCr rwcA).incSrcB rwcCr rwcB).incDst rwcCr rwcD :=
  ⟨_, rfl, PerThread.get_set_same ..⟩

section Steps

variable (r : Rwc)

theorem setSrcA_pair (bitMask : BitVec 6) (rwcCr rwcA : BitVec 4) :
    if MaskBit bitMask 0 then
      (r.setSrcA bitMask rwcCr rwcA).srcA.toNat
          = (if MaskBit rwcCr 0 then (r.srcACr.toNat + rwcA.toNat) % 64 else rwcA.toNat)
        ∧ (r.setSrcA bitMask rwcCr rwcA).srcACr = (r.setSrcA bitMask rwcCr rwcA).srcA
    else (r.setSrcA bitMask rwcCr rwcA).srcA = r.srcA ∧ (r.setSrcA bitMask rwcCr rwcA).srcACr = r.srcACr := by
  simp only [Rwc.setSrcA, flagSetA_iff, flagCrA_iff]
  split_ifs
  · exact ⟨toNat_add_setWidth6 .., rfl⟩
  · exact ⟨toNat_setWidth6 .., rfl⟩
  · exact ⟨rfl, rfl⟩

theorem setSrcB_pair (bitMask : BitVec 6) (rwcCr rwcB : BitVec 4) :
    if MaskBit bitMask 1 then
      (r.setSrcB bitMask rwcCr rwcB).srcB.toNat
          = (if MaskBit rwcCr 1 then (r.srcBCr.toNat + rwcB.toNat) % 64 else rwcB.toNat)
        ∧ (r.setSrcB bitMask rwcCr rwcB).srcBCr = (r.setSrcB bitMask rwcCr rwcB).srcB
    else (r.setSrcB bitMask rwcCr rwcB).srcB = r.srcB ∧ (r.setSrcB bitMask rwcCr rwcB).srcBCr = r.srcBCr := by
  simp only [Rwc.setSrcB, flagSetB_iff, flagCrB_iff]
  split_ifs
  · exact ⟨toNat_add_setWidth6 .., rfl⟩
  · exact ⟨toNat_setWidth6 .., rfl⟩
  · exact ⟨rfl, rfl⟩

theorem setFidelity_fidelityPhase (bitMask : BitVec 6) :
    (r.setFidelity bitMask).fidelityPhase = if MaskBit bitMask 3 then 0 else r.fidelityPhase := by
  simp only [Rwc.setFidelity, flagSetF_iff]
  split <;> rfl

theorem incSrcA_pair (rwcCr : BitVec 6) (rwcA : BitVec 4) :
    if MaskBit rwcCr 0 then
      (r.incSrcA rwcCr rwcA).srcACr.toNat = (r.srcACr.toNat + rwcA.toNat) % 64
        ∧ (r.incSrcA rwcCr rwcA).srcA = (r.incSrcA rwcCr rwcA).srcACr
    else (r.incSrcA rwcCr rwcA).srcA.toNat = (r.srcA.toNat + rwcA.toNat) % 64 ∧ (r.incSrcA rwcCr rwcA).srcACr = r.srcACr := by
  simp only [Rwc.incSrcA, flagCrA_iff]
  split <;> exact ⟨toNat_add_setWidth6 .., rfl⟩

theorem incSrcB_pair (rwcCr : BitVec 6) (rwcB : BitVec 4) :
    if MaskBit rwcCr 1 then
      (r.incSrcB rwcCr rwcB).srcBCr.toNat = (r.srcBCr.toNat + rwcB.toNat) % 64
        ∧ (r.incSrcB rwcCr rwcB).srcB = (r.incSrcB rwcCr rwcB).srcBCr
    else (r.incSrcB rwcCr rwcB).srcB.toNat = (r.srcB.toNat + rwcB.toNat) % 64 ∧ (r.incSrcB rwcCr rwcB).srcBCr = r.srcBCr := by
  simp only [Rwc.incSrcB, flagCrB_iff]
  split <;> exact ⟨toNat_add_setWidth6 .., rfl⟩

theorem incDst_pair (rwcCr : BitVec 6) (rwcD : BitVec 4) :
    if MaskBit rwcCr 2 then
      (r.incDst rwcCr rwcD).dstCr.toNat = (r.dstCr.toNat + rwcD.toNat) % 1024
        ∧ (r.incDst rwcCr rwcD).dst = (r.incDst rwcCr rwcD).dstCr
    else (r.incDst rwcCr rwcD).dst.toNat = (r.dst.toNat + rwcD.toNat) % 1024 ∧ (r.incDst rwcCr rwcD).dstCr = r.dstCr := by
  simp only [Rwc.incDst, flagCrD_iff]
  split <;> exact ⟨toNat_add_setWidth10 .., rfl⟩

/-- The four steps with every mask bit, no flag and the operands 0 leave the zero record but for ExtraAddrModBit (R116, R117). -/
theorem usualForm_record :
    (((r.setSrcA 15 0 0).setSrcB 15 0 0).setDst 15 0 0).setFidelity 15 = { Rwc.zero with extraAddrModBit := r.extraAddrModBit } := rfl

end Steps

/-- Settles O6: of SETRWC's steps the SrcA step alone writes the pair. -/
theorem setrwcSrcAStep : Obligations.SetrwcSrcAStep := by
  unfold Obligations.SetrwcSrcAStep
  intro clearAbVld rwcCr rwcD rwcB rwcA bitMask s
  obtain ⟨s', hexec, hrwc⟩ := setrwc_next clearAbVld rwcCr rwcD rwcB rwcA bitMask s
  refine ⟨s', hexec, ?_⟩
  simp only [hrwc, Rwc.setFidelity_srcA, Rwc.setFidelity_srcACr, Rwc.setDst_srcA, Rwc.setDst_srcACr, Rwc.setSrcB_srcA,
    Rwc.setSrcB_srcACr]
  exact setSrcA_pair (s.rwc.get s.currentThread) bitMask rwcCr rwcA

/-- Settles O7: the SrcB step reads the checkpoint that the SrcA step left alone, and it alone writes the pair. -/
theorem setrwcSrcBStep : Obligations.SetrwcSrcBStep := by
  unfold Obligations.SetrwcSrcBStep
  intro clearAbVld rwcCr rwcD rwcB rwcA bitMask s
  obtain ⟨s', hexec, hrwc⟩ := setrwc_next clearAbVld rwcCr rwcD rwcB rwcA bitMask s
  refine ⟨s', hexec, ?_⟩
  have hpair := setSrcB_pair ((s.rwc.get s.currentThread).setSrcA bitMask rwcCr rwcA) bitMask rwcCr rwcB
  simp only [hrwc, Rwc.setFidelity_srcB, Rwc.setFidelity_srcBCr, Rwc.setDst_srcB, Rwc.setDst_srcBCr]
  simpa only [Rwc.setSrcA_srcB, Rwc.setSrcA_srcBCr] using hpair

/-- Settles O9: the FidelityPhase step is the last, and no step before it writes the field. -/
theorem setrwcFidelityStep : Obligations.SetrwcFidelityStep := by
  unfold Obligations.SetrwcFidelityStep
  intro clearAbVld rwcCr rwcD rwcB rwcA bitMask s
  obtain ⟨s', hexec, hrwc⟩ := setrwc_next clearAbVld rwcCr rwcD rwcB rwcA bitMask s
  refine ⟨s', hexec, ?_⟩
  rw [hrwc, setFidelity_fidelityPhase, Rwc.setDst_fidelityPhase, Rwc.setSrcB_fidelityPhase, Rwc.setSrcA_fidelityPhase]
  split <;> rfl

/-- Settles O11: the record after the usual form is the zero record with the ExtraAddrModBit of before. -/
theorem setrwcUsualFormZeroesCounters : Obligations.SetrwcUsualFormZeroesCounters := by
  unfold Obligations.SetrwcUsualFormZeroesCounters
  refine ⟨rfl, fun s => ?_⟩
  obtain ⟨s', hexec, hrwc⟩ := setrwc_next 0 0 0 0 0 15 s
  refine ⟨s', hexec, ?_⟩
  rw [hrwc, usualForm_record]
  exact ⟨rfl, rfl, rfl, rfl, rfl, rfl, rfl, rfl⟩

/-- Settles O12: each of INCRWC's updates writes its own pair alone, so each reads the record of before. -/
theorem incrwcUpdatesTheCounters : Obligations.IncrwcUpdatesTheCounters := by
  unfold Obligations.IncrwcUpdatesTheCounters
  intro rwcCr rwcD rwcB rwcA s
  obtain ⟨s', hexec, hrwc⟩ := incrwc_next rwcCr rwcD rwcB rwcA s
  refine ⟨s', hexec, ?_⟩
  have hsrcB := incSrcB_pair ((s.rwc.get s.currentThread).incSrcA rwcCr rwcA) rwcCr rwcB
  have hdst := incDst_pair (((s.rwc.get s.currentThread).incSrcA rwcCr rwcA).incSrcB rwcCr rwcB) rwcCr rwcD
  simp only [Rwc.incSrcA_srcB, Rwc.incSrcA_srcBCr] at hsrcB
  simp only [Rwc.incSrcB_dst, Rwc.incSrcB_dstCr, Rwc.incSrcA_dst, Rwc.incSrcA_dstCr] at hdst
  simp only [hrwc, Rwc.incDst_srcA, Rwc.incDst_srcACr, Rwc.incDst_srcB, Rwc.incDst_srcBCr, Rwc.incSrcB_srcA, Rwc.incSrcB_srcACr]
  exact ⟨incSrcA_pair (s.rwc.get s.currentThread) rwcCr rwcA, hsrcB, hdst⟩

end Sys2Proof.RwcWriters

/-! ApplyAddrMod and ApplyPartialAddrMod (spec/42_addrmod.md): what each of their steps does to its counter pair as numbers, and how
the two forms differ. -/

namespace Sys2Proof.AddrMod

open Sys2Proof.Machine

section Steps

variable (r : Rwc)

/-- The SrcA step is the update of R133, by the reading of the AB word of R15. -/
theorem stepSrcA_updated (ab : CfgWord) : SrcAUpdated ab.toNat r (r.stepSrcA ab) := by
  have hincr (a : BitVec 6) : (a + abSrcAIncr ab).toNat = (a.toNat + ab.toNat % 64) % 64 := by
    rw [BitVec.toNat_add, abSrcAIncr_toNat]
  simp only [SrcAUpdated, Rwc.stepSrcA, abSrcAClear_iff, abSrcACr_iff, MaskBit, Nat.reducePow]
  split_ifs
  · exact ⟨rfl, rfl⟩
  · exact ⟨hincr r.srcACr, rfl⟩
  · exact ⟨hincr r.srcA, rfl⟩

/-- The SrcB step is the update of R134, by the reading of the AB word of R15. -/
theorem stepSrcB_updated (ab : CfgWord) : SrcBUpdated ab.toNat r (r.stepSrcB ab) := by
  have hincr (a : BitVec 6) : (a + abSrcBIncr ab).toNat = (a.toNat + ab.toNat / 2 ^ 8 % 64) % 64 := by
    rw [BitVec.toNat_add, abSrcBIncr_toNat]
  simp only [SrcBUpdated, Rwc.stepSrcB, abSrcBClear_iff, abSrcBCr_iff]
  split_ifs
  · exact ⟨rfl, rfl⟩
  · exact ⟨hincr r.srcBCr, rfl⟩
  · exact ⟨hincr r.srcB, rfl⟩

/-- The Dst step is the update of R135, by the reading of the DST word of R16. -/
theorem stepDst_updated (d : CfgWord) : DstUpdated d.toNat r (r.stepDst d) := by
  have hincr (a : BitVec 10) : (a + dstDestIncr d).toNat = (a.toNat + d.toNat % 1024) % 1024 := by
    rw [BitVec.toNat_add, dstDestIncr_toNat]
  simp only [DstUpdated, Rwc.stepDst, dstDestClear_iff, dstDestCToCr_iff, dstDestCr_iff]
  split_ifs
  · exact ⟨rfl, rfl⟩
  · exact ⟨hincr r.dst, rfl⟩
  · exact ⟨hincr r.dstCr, rfl⟩
  · exact ⟨hincr r.dst, rfl⟩

/-- The FidelityPhase step is the update of R136, by the reading of the DST word of R16. -/
theorem stepFidelity_updated (upd : Bool) (d : CfgWord) : FidelityUpdated upd d.toNat r (r.stepFidelity upd d) := by
  have hincr (a : BitVec 2) : (a + dstFidelityIncr d).toNat = (a.toNat + d.toNat / 2 ^ 13 % 4) % 4 := by
    rw [BitVec.toNat_add, dstFidelityIncr_toNat]
  simp only [FidelityUpdated, Rwc.stepFidelity, dstFidelityClear_iff]
  split_ifs
  · rfl
  · exact hincr r.fidelityPhase
  · rfl

/-- The last three steps write neither SrcA nor its checkpoint. -/
theorem applyDescriptor_srcAUpdated (upd : Bool) (d : Descriptor) : SrcAUpdated d.ab.toNat r (r.applyDescriptor upd d) := by
  simpa [SrcAUpdated, Rwc.applyDescriptor] using stepSrcA_updated r d.ab

/-- The SrcB step reads the pair that the SrcA step left alone, and no later step writes it. -/
theorem applyDescriptor_srcBUpdated (upd : Bool) (d : Descriptor) : SrcBUpdated d.ab.toNat r (r.applyDescriptor upd d) := by
  simpa [SrcBUpdated, Rwc.applyDescriptor] using stepSrcB_updated (r.stepSrcA d.ab) d.ab

/-- The Dst step reads the pair that the two steps before it left alone, and no later step writes it. -/
theorem applyDescriptor_dstUpdated (upd : Bool) (d : Descriptor) : DstUpdated d.dst.toNat r (r.applyDescriptor upd d) := by
  simpa [DstUpdated, Rwc.applyDescriptor] using stepDst_updated ((r.stepSrcA d.ab).stepSrcB d.ab) d.dst

/-- The FidelityPhase step reads the field that the three steps before it left alone, and the last step does not write it. -/
theorem applyDescriptor_fidelityUpdated (upd : Bool) (d : Descriptor) :
    FidelityUpdated upd d.dst.toNat r (r.applyDescriptor upd d) := by
  simpa [FidelityUpdated, Rwc.applyDescriptor]
    using stepFidelity_updated (((r.stepSrcA d.ab).stepSrcB d.ab).stepDst d.dst) upd d.dst

/-- The FidelityPhase step writes no other field: what it did is lost when FidelityPhase is overwritten. -/
theorem stepFidelity_with_fidelityPhase (upd : Bool) (d : CfgWord) (phase : BitVec 2) :
    { r.stepFidelity upd d with fidelityPhase := phase } = { r with fidelityPhase := phase } := by
  unfold Rwc.stepFidelity
  split_ifs <;> rfl

/-- The ExtraAddrModBit step neither reads nor writes FidelityPhase. -/
theorem stepExtraBit_with_fidelityPhase (b : CfgWord) (phase : BitVec 2) :
    Rwc.stepExtraBit { r with fidelityPhase := phase } b = { r.stepExtraBit b with fidelityPhase := phase } := by
  unfold Rwc.stepExtraBit
  split_ifs <;> rfl

/-- R139: the partial form leaves the record of the full form but for FidelityPhase, which it keeps. -/
theorem applyDescriptor_partial (d : Descriptor) :
    r.applyDescriptor false d = { r.applyDescriptor true d with fidelityPhase := r.fidelityPhase } := by
  have hkept : (((r.stepSrcA d.ab).stepSrcB d.ab).stepDst d.dst).fidelityPhase = r.fidelityPhase := by simp
  unfold Rwc.applyDescriptor
  generalize ((r.stepSrcA d.ab).stepSrcB d.ab).stepDst d.dst = q at hkept ⊢
  calc (q.stepFidelity false d.dst).stepExtraBit d.bias
      = Rwc.stepExtraBit { q with fidelityPhase := r.fidelityPhase } d.bias := by rw [← hkept]; rfl
    _ = Rwc.stepExtraBit { q.stepFidelity true d.dst with fidelityPhase := r.fidelityPhase } d.bias := by
      rw [stepFidelity_with_fidelityPhase]
    _ = { (q.stepFidelity true d.dst).stepExtraBit d.bias with fidelityPhase := r.fidelityPhase } :=
      stepExtraBit_with_fidelityPhase ..

end Steps

/-- What holds of the record that the descriptor gives holds of the record after the consumer, which completes. -/
theorem consumer_next_of {i : Instr} {am : Nat} {upd : Bool} {s : State} {index : Nat} {P : Rwc → Prop}
    (huse : addrModeUse i = some (am, upd)) (hsel : SelectsSection s am index)
    (h : P ((s.rwc.get s.currentThread).applyDescriptor upd (s.descriptor index))) :
    ∃ s', exec i s = .next s' ∧ P (s'.rwc.get s.currentThread) := by
  obtain ⟨s', hexec, hrwc⟩ := consumer_next huse hsel
  exact ⟨s', hexec, hrwc ▸ h⟩

/-- A consumer that completes has an addr_mode that selects a section. -/
theorem consumer_selects {i : Instr} {am : Nat} {upd : Bool} {s s' : State} (huse : addrModeUse i = some (am, upd))
    (h : exec i s = .next s') : ∃ index, SelectsSection s am index := by
  obtain ⟨f, hexec, -⟩ := consumer_exec huse s
  obtain ⟨index, hsel, -⟩ := consume_next (hexec ▸ h)
  exact ⟨index, hsel⟩

/-- Settles O15: of ApplyAddrMod's steps the SrcA step alone writes the pair. -/
theorem consumerSrcAUpdate : Obligations.ConsumerSrcAUpdate := by
  unfold Obligations.ConsumerSrcAUpdate
  intro i am upd s index huse hsel
  exact consumer_next_of (P := SrcAUpdated _ _) huse hsel (applyDescriptor_srcAUpdated _ upd (s.descriptor index))

/-- Settles O16: of ApplyAddrMod's steps the SrcB step alone writes the pair. -/
theorem consumerSrcBUpdate : Obligations.ConsumerSrcBUpdate := by
  unfold Obligations.ConsumerSrcBUpdate
  intro i am upd s index huse hsel
  exact consumer_next_of (P := SrcBUpdated _ _) huse hsel (applyDescriptor_srcBUpdated _ upd (s.descriptor index))

/-- Settles O17: of ApplyAddrMod's steps the Dst step alone writes the pair. -/
theorem consumerDstUpdate : Obligations.ConsumerDstUpdate := by
  unfold Obligations.ConsumerDstUpdate
  intro i am upd s index huse hsel
  exact consumer_next_of (P := DstUpdated _ _) huse hsel (applyDescriptor_dstUpdated _ upd (s.descriptor index))

/-- Settles O18: of ApplyAddrMod's steps the FidelityPhase step alone writes the field, and it runs in the full form only. -/
theorem consumerFidelityUpdate : Obligations.ConsumerFidelityUpdate := by
  unfold Obligations.ConsumerFidelityUpdate
  intro i am upd s index huse hsel
  exact consumer_next_of (P := FidelityUpdated upd _ _) huse hsel (applyDescriptor_fidelityUpdated _ upd (s.descriptor index))

/-- Settles O22: the two consumers select the same section, and the forms differ on its descriptor in FidelityPhase alone. -/
theorem partialFormSkipsFidelityOnly : Obligations.PartialFormSkipsFidelityOnly := by
  unfold Obligations.PartialFormSkipsFidelityOnly
  intro i j am s s₁ hpartial hfull hexec₁
  obtain ⟨index, hsel⟩ := consumer_selects hpartial hexec₁
  obtain ⟨s₁', hexec₁', hrwc₁⟩ := consumer_next hpartial hsel
  obtain ⟨s₂, hexec₂, hrwc₂⟩ := consumer_next hfull hsel
  obtain rfl : s₁ = s₁' := Host.Outcome.next.inj (hexec₁.symm.trans hexec₁')
  refine ⟨s₂, hexec₂, ?_⟩
  rw [hrwc₁, hrwc₂, applyDescriptor_partial]

end Sys2Proof.AddrMod

/-! The round trips of encoding (spec/30_encoding.md): decoding the word of an instruction, encoding the instruction of a word, and
rotating a word to its stream form and back. -/

namespace Sys2Proof.RoundTrip

/-- `extract_append_high` for a word whose width is written as a number and not as a sum. -/
theorem slice_append_high {n m lo len : Nat} (a : BitVec n) (b : BitVec m) (h : m ≤ lo) :
    (no_index (a ++ b)).extractLsb' lo len = a.extractLsb' (lo - m) len := extract_append_high a b h

/-- `extract_append_low` for a word whose width is written as a number and not as a sum. -/
theorem slice_append_low {n m lo len : Nat} (a : BitVec n) (b : BitVec m) (h : lo + len ≤ m) :
    (no_index (a ++ b)).extractLsb' lo len = b.extractLsb' lo len := extract_append_low a b h

/-- The opcode byte of an encoded instruction selects the instruction's own format. -/
theorem decode_encode (i : Instr) : decode (encode i) = operandsOf i.opcode (encode i) := by
  rw [decode, field_encode_opcode, opcodeOf_code]

/-- Every field of a format is the operand that the encoder put there, and the bits that no table assigns are those that
well-formedness holds at 0. -/
theorem operandsOf_encode {i : Instr} (h : i.wf = true) : operandsOf i.opcode (encode i) = .ok i := by
  cases i
  case setc16 => cases h
  all_goals
    simp only [Instr.wf, bitMaskAssigned, crFlagsAssigned, addrModeAssigned, secondOperandAssigned, beq_iff_eq,
      Bool.and_eq_true] at h
    simp [Instr.opcode, operandsOf, requireZero, field_encode_params, Instr.params, slice_append_high, slice_append_low, h]

/-- Settles O1: the opcode byte selects the instruction's format, and each field of the format is the operand put there. -/
theorem decodeOfEncodeIsTheInstruction : Obligations.DecodeOfEncodeIsTheInstruction := by
  unfold Obligations.DecodeOfEncodeIsTheInstruction
  intro i h
  rw [decode_encode, operandsOf_encode h]

/-- Two neighbouring fields put together are the field over both. -/
theorem field_append {w : Word} {hi lo n m : Nat} (h : hi = lo + m) : field w hi n ++ field w lo m = field w lo (n + m) :=
  BitVec.extractLsb'_append_extractLsb'_eq_extractLsb' h

/-- A slice of a field is a field. -/
theorem slice_field (w : Word) {lo len a b : Nat} (h : a + b ≤ len) : (field w lo len).extractLsb' a b = field w (lo + a) b := by
  ext k hk
  simp [field, Nat.add_assoc, show a + k < len by omega]

/-- A check of the decoder that is passed: its condition holds, and the rest of the decoder answers. -/
theorem guarded_eq_ok {c : Prop} [Decidable c] {x : Except DecodeError Instr} {e : DecodeError} {i : Instr} :
    (if c then x else .error e) = .ok i ↔ c ∧ x = .ok i := by
  split <;> simp_all

/-- What the decoder reads by a format is an instruction of that opcode, is well-formed, and its operand bits are the word's: the
fields and the bits checked to be 0 cover `W[23:0]` without a gap. -/
theorem operandsOf_eq_ok {o : Opcode} {w : Word} {i : Instr} (h : operandsOf o w = .ok i) :
    i.opcode = o ∧ i.params = field w 0 24 ∧ i.wf = true := by
  cases o <;> simp only [operandsOf, guarded_eq_ok, requireZero_eq_ok, reduceCtorEq, Except.ok.injEq] at h
  case setadc | replay | mop | unpacr | pacr =>
    subst h
    refine ⟨rfl, ?_, rfl⟩
    simp only [Instr.params, Channel.code_ofCode, Dim.code_ofCode]
    repeat rw [field_append]
    all_goals rfl
  case setrwc | elwadd | sfpload | sfpstore | setadcxx =>
    obtain ⟨hzero, rfl⟩ := h
    refine ⟨rfl, ?_, ?_⟩
    · simp only [Instr.params, ofBool_of_beq_one, ← hzero]
      repeat rw [field_append]
      all_goals rfl
    · simp [Instr.wf, bitMaskAssigned, addrModeAssigned, slice_field, hzero]
  case incrwc | mvmul | setadcxy | setadczw | incadcxy | incadczw =>
    obtain ⟨hhigh, hlow, rfl⟩ := h
    refine ⟨rfl, ?_, ?_⟩
    · simp only [Instr.params, ← hhigh, ← hlow]
      repeat rw [field_append]
      all_goals rfl
    · simp [Instr.wf, crFlagsAssigned, addrModeAssigned, secondOperandAssigned, slice_field, hhigh, hlow]

/-- A word that decodes has the opcode byte of one of the opcodes and is read by its format. -/
theorem operandsOf_of_decode {w : Word} {i : Instr} (h : decode w = .ok i) :
    ∃ o, o.code = field w 24 8 ∧ operandsOf o w = .ok i := by
  unfold decode at h
  split at h
  · rename_i o ho
    exact ⟨o, opcodeOf_eq_some ho, h⟩
  · cases h

/-- Settles O2: the opcode byte and the operand bits of the instruction are those of the word, which are all its bits. -/
theorem decodedWordsAreEncodings : Obligations.DecodedWordsAreEncodings := by
  unfold Obligations.DecodedWordsAreEncodings
  intro w i h
  obtain ⟨o, hcode, hoperands⟩ := operandsOf_of_decode h
  obtain ⟨rfl, hparams, hwf⟩ := operandsOf_eq_ok hoperands
  refine ⟨hwf, ?_⟩
  calc encode i = field w 24 8 ++ field w 0 24 := by rw [encode, hcode, hparams]
    _ = field w 0 32 := field_append rfl
    _ = w := extract_full w

/-- The TT_OP word of a stream word as a number: `S[1:0]` comes in at the high end (R61). -/
theorem ofStream_toNat (s : Word) : (ofStream s).toNat = s.toNat % 2 ^ 2 * 2 ^ 30 + s.toNat / 2 ^ 2 := by
  have hlow : s.toNat / 2 ^ 2 < 2 ^ 30 := by have := s.isLt; omega
  have hshift : s.toNat * 2 ^ 30 % 2 ^ 32 = s.toNat % 2 ^ 2 * 2 ^ 30 := Nat.mul_mod_mul_right (2 ^ 30) s.toNat (2 ^ 2)
  rw [ofStream, BitVec.toNat_rotateRight, Nat.shiftLeft_eq, Nat.shiftRight_eq_div_pow, hshift, ← Nat.shiftLeft_eq, Nat.lor_comm,
    ← Nat.shiftLeft_add_eq_or_of_lt hlow, Nat.shiftLeft_eq]

/-- A rotation to the left is undone by the rotation to the right (R61). -/
theorem ofStream_toStream (w : Word) : ofStream (toStream w) = w := by
  apply BitVec.eq_of_toNat_eq
  rw [ofStream_toNat, Encoding.toStream_toNat]
  omega

/-- A rotation to the right is undone by the rotation to the left (R61). -/
theorem toStream_ofStream (s : Word) : toStream (ofStream s) = s := by
  apply BitVec.eq_of_toNat_eq
  rw [Encoding.toStream_toNat, ofStream_toNat]
  omega

/-- Settles O4: the rotation as a number, undone both ways, so that a stream word is decoded as its TT_OP word. -/
theorem streamWordIsTheRotation : Obligations.StreamWordIsTheRotation := by
  unfold Obligations.StreamWordIsTheRotation
  intro w
  refine ⟨Encoding.toStream_toNat w, ofStream_toStream w, toStream_ofStream w, ?_⟩
  rw [decodeStream, ofStream_toStream]

/-- Settles O5: the five words, decoded one by one. -/
theorem listedStreamWordsDecode : Obligations.ListedStreamWordsDecode := by
  unfold Obligations.ListedStreamWordsDecode
  exact ⟨rfl, rfl, rfl, rfl, rfl⟩

end Sys2Proof.RoundTrip

/-! One step (spec/10_state.md R21, spec/20_memory.md R47): when it runs an instruction and when it stops, what it does to the
instruction supply, and the invariant that it keeps. -/

namespace Sys2Proof.Steps

open Sys2Proof.Machine

/-- A scheduled thread whose next entry is an instruction executes it in the issued state. -/
theorem step_of_entry {s : State} {t : ThreadId} {rest : List ThreadId} {e : SequenceEntry} {i : Instr} (hs : s.schedule = t :: rest)
    (he : (s.sequences.get t).entries[(s.sequences.get t).position]? = some e) (hi : e.instr = .ok i) :
    step s = exec i (s.issue t rest) := by
  simp only [step, hs, State.nextEntry, he, hi]

/-- Settles O47: a word that decodes and an abstract write are both entries that are an instruction. -/
theorem stepRunsTheDecodedInstruction : Obligations.StepRunsTheDecodedInstruction := by
  unfold Obligations.StepRunsTheDecodedInstruction
  rintro s t rest e i hs he (⟨w, rfl, hw⟩ | ⟨addr32, value, rfl, rfl⟩)
  · exact step_of_entry hs he hw
  · exact step_of_entry hs he rfl

/-- Settles O48: `step` looks at the schedule, at the sequence and at the entry, in this order. -/
theorem stepStopsWithoutAnInstruction : Obligations.StepStopsWithoutAnInstruction := by
  unfold Obligations.StepStopsWithoutAnInstruction
  intro s
  refine ⟨fun hs => ?_, fun t rest hs hend => ?_, fun t rest w e hs hw he => ?_⟩
  · rw [step, hs]
  · simp only [step, hs, State.nextEntry, List.getElem?_eq_none hend]
  · simp only [step, hs, State.nextEntry, hw, SequenceEntry.instr_word, he]

/-- Settles O49: the issue moves the thread's position, and the instruction leaves the instruction supply alone. -/
theorem stepAdvancesTheIssuingThreadOnly : Obligations.StepAdvancesTheIssuingThreadOnly := by
  unfold Obligations.StepAdvancesTheIssuingThreadOnly
  intro s s' h
  obtain ⟨t, rest, e, i, hs, -, -, hexec⟩ := step_next h
  obtain ⟨hcurrent, hschedule, hsequences, -⟩ := exec_keeps hexec
  refine ⟨t, by rw [hs, hschedule, State.issue_schedule], hcurrent, ?_, fun u hu => ?_⟩
  · rw [hsequences, State.issue_sequences, PerThread.get_set_same]
  · rw [hsequences, State.issue_sequences, PerThread.get_set_other _ _ hu]

/-- Settles O53: the issue touches no RWC record, and the instruction that of the issuing thread alone. -/
theorem noCrossThreadRwcAccess : Obligations.NoCrossThreadRwcAccess := by
  unfold Obligations.NoCrossThreadRwcAccess
  intro s s' t u rest hs h hu
  obtain ⟨t', rest', e, i, hs', -, -, hexec⟩ := step_next h
  obtain ⟨rfl, rfl⟩ := List.cons.inj (hs.symm.trans hs')
  exact (exec_otherThreads hexec hu).1

/-- The words of every thread after a configuration write: those of the issuing thread, written at one index. -/
theorem writeCfg16_words (s : State) (a : Nat) (v : CfgWord) (t : ThreadId) :
    ((s.writeCfg16 a v).threadConfig.get t).words
      = if t = s.currentThread then (s.threadConfig.get t).words.write a v else (s.threadConfig.get t).words := by
  rw [State.writeCfg16_threadConfig, PerThread.get_set]
  split
  · subst t
    unfold ThreadConfig.writeWord
    split <;> rfl
  · rfl

/-- Issuing an entry that exists moves the position inside the sequence. -/
theorem issue_inv {s : State} {t : ThreadId} {e : SequenceEntry} (rest : List ThreadId) (h : s.Inv)
    (he : (s.sequences.get t).entries[(s.sequences.get t).position]? = some e) : (s.issue t rest).Inv := by
  refine { h with position_le := fun u => ?_ }
  obtain ⟨hlt, -⟩ := List.getElem?_eq_some_iff.mp he
  rw [State.issue_sequences, PerThread.get_set]
  split
  · exact hlt
  · exact h.position_le u

/-- A configuration write at an index of 8 bits keeps the thread's words canonical and below index 256. -/
theorem writeCfg16_inv {s : State} {a : Nat} (v : CfgWord) (h : s.Inv) (ha : a < 256) : (s.writeCfg16 a v).Inv := by
  refine { h with config_wf := fun t => ?_, config_within := fun t => ?_ }
  · rw [writeCfg16_words]
    split
    · exact Cells.wf_write a v (h.config_wf t)
    · exact h.config_wf t
  · rw [writeCfg16_words]
    split
    · exact Cells.within_write v (h.config_within t) ha
    · exact h.config_within t

/-- Free values written inside Dst keep it canonical and inside its address space. -/
theorem writeFreeDst_inv {s : State} {cells : List Nat} (h : s.Inv) (hcells : ∀ a ∈ cells, a < 1024 * 16) :
    (s.writeFreeDst cells).Inv :=
  { h with
    dst_wf := Cells.wf_writeAll _ cells h.dst_wf
    dst_within := Cells.within_writeAll _ cells h.dst_within hcells }

/-- No clause of the invariant speaks of the RWC records or of the effects. -/
theorem setRwc_inv {s : State} (r : Rwc) (h : s.Inv) : (s.setRwc r).Inv := { h with }

theorem emit_inv {s : State} (es : List Effect) (h : s.Inv) : (s.emit es).Inv := { h with }

/-- Every instruction keeps the invariant: what it writes of the files, it writes by `writeFreeDst` or `writeCfg16`. -/
theorem exec_inv {i : Instr} {s s' : State} (h : s.Inv) (hexec : exec i s = .next s') : s'.Inv := by
  rcases exec_shape hexec with
    ⟨-, r, es, rfl⟩ | ⟨am, upd, index, es, -, -, rfl | ⟨cells, hcells, rfl⟩⟩ | ⟨t, f, -, -, rfl⟩ | ⟨a, v, -, ha, rfl⟩
  · exact emit_inv es (setRwc_inv r h)
  · exact setRwc_inv _ (emit_inv es h)
  · exact setRwc_inv _ (emit_inv es (writeFreeDst_inv h hcells))
  · exact { h with }
  · exact writeCfg16_inv v h ha

/-- Settles O50: the issue keeps the invariant, since the entry exists, and so does the instruction. -/
theorem stepKeepsTheInvariant : Obligations.StepKeepsTheInvariant := by
  unfold Obligations.StepKeepsTheInvariant
  intro s s' h hstep
  obtain ⟨t, rest, e, i, -, he, -, hexec⟩ := step_next hstep
  exact exec_inv (issue_inv rest h he) hexec

/-- Settles O51: every file is empty at reset, every sequence too. -/
theorem resetMeetsTheInvariant : Obligations.ResetMeetsTheInvariant := by
  unfold Obligations.ResetMeetsTheInvariant
  exact {
    l1_wf := rfl, srcA_wf := rfl, srcA_within := rfl, srcB_wf := rfl, srcB_within := rfl, dst_wf := rfl, dst_within := rfl
    config_wf := fun t => by cases t <;> rfl
    config_within := fun t => by cases t <;> rfl
    position_le := fun t => by cases t <;> exact Nat.le_refl 0
    bytesPerDatum_pos := Nat.one_pos }

/-- Settles O52: each record is the same zero record for every thread. -/
theorem resetLeavesZeroCounters : Obligations.ResetLeavesZeroCounters := by
  unfold Obligations.ResetLeavesZeroCounters
  refine ⟨fun t => ?_, fun t k c d => ?_, fun t a => ?_, fun t => ?_, rfl⟩
  · exact PerThread.get_all t Rwc.zero
  · have hadc : State.reset.adc.get t = Adc.zero := PerThread.get_all t Adc.zero
    have hunit : Adc.zero.unit k = AdcUnit.zero := by fin_cases k <;> rfl
    rw [hadc, hunit]
    cases c <;> cases d <;> exact ⟨rfl, rfl⟩
  · have hconfig : State.reset.threadConfig.get t = ThreadConfig.zero := PerThread.get_all t ThreadConfig.zero
    rw [State.cfg16, hconfig]
    rfl
  · have hsequence : State.reset.sequences.get t = { entries := [], position := 0 } := PerThread.get_all t _
    rw [hsequence]

end Sys2Proof.Steps

/-! SETRWC and INCRWC (spec/41_setrwc_incrwc.md): the Dst step, the bank step, what the two leave alone, and where they agree. -/

namespace Sys2Proof.RwcWriters

open Sys2Proof.Machine

theorem setDst_pair (r : Rwc) (bitMask : BitVec 6) (rwcCr rwcD : BitVec 4) :
    if bitMask.toNat / 4 % 4 = 0 then
      (r.setDst bitMask rwcCr rwcD).dst = r.dst ∧ (r.setDst bitMask rwcCr rwcD).dstCr = r.dstCr
    else
      (r.setDst bitMask rwcCr rwcD).dstCr = (r.setDst bitMask rwcCr rwcD).dst
        ∧ (r.setDst bitMask rwcCr rwcD).dst.toNat
          = (if MaskBit rwcCr 3 then (r.dst.toNat + rwcD.toNat) % 1024
              else if MaskBit rwcCr 2 then (r.dstCr.toNat + rwcD.toNat) % 1024
              else rwcD.toNat) := by
  simp only [Rwc.setDst, flagDstStep_iff, flagCToCr_iff, flagCrD_iff, ne_eq, ite_not]
  split_ifs
  · exact ⟨rfl, rfl⟩
  · exact ⟨rfl, toNat_add_setWidth10 ..⟩
  · exact ⟨rfl, toNat_add_setWidth10 ..⟩
  · exact ⟨rfl, toNat_setWidth10 ..⟩

/-- Settles O8: the Dst step reads the pair that the steps before it left alone, and it alone writes the pair. -/
theorem setrwcDstStep : Obligations.SetrwcDstStep := by
  unfold Obligations.SetrwcDstStep
  intro clearAbVld rwcCr rwcD rwcB rwcA bitMask s
  obtain ⟨s', hexec, hrwc⟩ := setrwc_next clearAbVld rwcCr rwcD rwcB rwcA bitMask s
  refine ⟨s', hexec, ?_⟩
  have hpair := setDst_pair (((s.rwc.get s.currentThread).setSrcA bitMask rwcCr rwcA).setSrcB bitMask rwcCr rwcB) bitMask rwcCr rwcD
  simp only [hrwc, Rwc.setFidelity_dst, Rwc.setFidelity_dstCr]
  simpa only [Rwc.setSrcB_dst, Rwc.setSrcB_dstCr, Rwc.setSrcA_dst, Rwc.setSrcA_dstCr] using hpair

/-- The bank events of R115: the two of SrcA under bit 0, then the two of SrcB under bit 1. -/
theorem bankEffects_events (clearAbVld : BitVec 2) (t : ThreadId) :
    (bankEffects clearAbVld).map (fun e => { thread := t, effect := e : Event })
      = (if MaskBit clearAbVld 0 then [⟨t, .releaseSrcaBank⟩, ⟨t, .flipSrcaBank⟩] else [])
        ++ (if MaskBit clearAbVld 1 then [⟨t, .releaseSrcbBank⟩, ⟨t, .flipSrcbBank⟩] else []) := by
  simp only [bankEffects, getLsbD_eq_maskBit, decide_eq_true_eq, List.map_append]
  split_ifs <;> rfl

/-- Settles O10: the bank step is a record of effects, and the RWC steps do not read clear_ab_vld. -/
theorem setrwcBankStep : Obligations.SetrwcBankStep := by
  unfold Obligations.SetrwcBankStep
  intro clearAbVld rwcCr rwcD rwcB rwcA bitMask s
  refine ⟨_, rfl, ?_, rfl, _, rfl, rfl⟩
  rw [State.emit_effects, State.setRwc_effects, State.setRwc_currentThread, bankEffects_events, List.append_assoc]

/-- Settles O13: both write the issuing thread's record, and no step of theirs writes ExtraAddrModBit. -/
theorem rwcWritersFrame : Obligations.RwcWritersFrame := by
  unfold Obligations.RwcWritersFrame
  constructor
  · intro clearAbVld rwcCr rwcD rwcB rwcA bitMask s s' h
    obtain ⟨s₁, hexec, hrwc⟩ := setrwc_next clearAbVld rwcCr rwcD rwcB rwcA bitMask s
    obtain rfl : s₁ = s' := Host.Outcome.next.inj (hexec.symm.trans h)
    refine ⟨?_, fun u hu => (exec_otherThreads h hu).1, by simp [hrwc], ?_⟩
    all_goals
      cases h
      intros
      rfl
  · intro rwcCr rwcD rwcB rwcA s s' h
    obtain ⟨s₁, hexec, hrwc⟩ := incrwc_next rwcCr rwcD rwcB rwcA s
    obtain rfl : s₁ = s' := Host.Outcome.next.inj (hexec.symm.trans h)
    refine ⟨?_, fun u hu => (exec_otherThreads h hu).1, by simp [hrwc], by simp [hrwc], ?_⟩
    all_goals
      cases h
      intros
      rfl

/-- Under the mask 7 and the flags 7 the steps of SETRWC are the updates of INCRWC (R125). -/
theorem setSteps_eq_incSteps (r : Rwc) (rwcD rwcB rwcA : BitVec 4) :
    (((r.setSrcA 7 7 rwcA).setSrcB 7 7 rwcB).setDst 7 7 rwcD).setFidelity 7 = ((r.incSrcA 7 rwcA).incSrcB 7 rwcB).incDst 7 rwcD := rfl

/-- Settles O14: the records agree, and clear_ab_vld 0 records no effect. -/
theorem setrwcWithCheckpointFlagsIsIncrwc : Obligations.SetrwcWithCheckpointFlagsIsIncrwc := by
  unfold Obligations.SetrwcWithCheckpointFlagsIsIncrwc
  intro rwcD rwcB rwcA s
  have hnone (s' : State) : s'.emit (bankEffects 0) = s' := by simp [State.emit, bankEffects]
  calc exec (.setrwc 0 7 rwcD rwcB rwcA 7) s
      = .next (s.setRwc ((((s.currentRwc.setSrcA 7 7 rwcA).setSrcB 7 7 rwcB).setDst 7 7 rwcD).setFidelity 7)) :=
        congrArg Host.Outcome.next (hnone _)
    _ = exec (.incrwc 7 rwcD rwcB rwcA) s := by rw [setSteps_eq_incSteps]; rfl

end Sys2Proof.RwcWriters

/-! ApplyAddrMod (spec/42_addrmod.md): the ExtraAddrModBit update, the signed increment, and the addr_mode values that a bank refuses. -/

namespace Sys2Proof.AddrMod

open Sys2Proof.Machine

/-- The ExtraAddrModBit step is the update of R137, by the reading of the BIAS word of R17. -/
theorem stepExtraBit_updated (r : Rwc) (b : CfgWord) : ExtraBitUpdated b.toNat r (r.stepExtraBit b) := by
  simp only [ExtraBitUpdated, Rwc.stepExtraBit, biasClear_iff, biasSteps_iff, MaskBit, Nat.reducePow]
  split_ifs
  · rfl
  · exact BitVec.toNat_add ..
  · rfl

/-- The ExtraAddrModBit step is the last, and no step before it writes the field. -/
theorem applyDescriptor_extraBitUpdated (r : Rwc) (upd : Bool) (d : Descriptor) :
    ExtraBitUpdated d.bias.toNat r (r.applyDescriptor upd d) := by
  simpa [ExtraBitUpdated, Rwc.applyDescriptor]
    using stepExtraBit_updated ((((r.stepSrcA d.ab).stepSrcB d.ab).stepDst d.dst).stepFidelity upd d.dst) d.bias

/-- Settles O19: of ApplyAddrMod's steps the ExtraAddrModBit step alone writes the field. -/
theorem consumerExtraBitUpdate : Obligations.ConsumerExtraBitUpdate := by
  unfold Obligations.ConsumerExtraBitUpdate
  intro i am upd s index huse hsel
  exact consumer_next_of (P := ExtraBitUpdated _ _) huse hsel (applyDescriptor_extraBitUpdated _ upd (s.descriptor index))

/-- With Clear, CToCR and CR all 0 the update of R135 adds DestIncr to Dst. -/
theorem dstUpdated_plain {d : Nat} {r r' : Rwc} (h : DstUpdated d r r') (hflags : d / 2 ^ 10 % 8 = 0) :
    r'.dst.toNat = (r.dst.toNat + d % 1024) % 1024 := by
  unfold DstUpdated at h
  rw [if_neg (by omega), if_neg (by omega), if_neg (by omega)] at h
  exact h.1

/-- Settles O20: modulo 1024 the increment and its two's-complement reading are the same addend. -/
theorem destIncrIsSigned : Obligations.DestIncrIsSigned := by
  unfold Obligations.DestIncrIsSigned
  intro i am upd s index huse hsel hflags
  obtain ⟨s', hexec, hdst⟩ := consumerDstUpdate i am upd s index huse hsel
  refine ⟨s', hexec, ?_⟩
  have hplain := dstUpdated_plain hdst hflags
  dsimp only
  split <;> omega

/-- Settles O21: every consumer selects its descriptor by the same table. -/
theorem upperBankAddrModeRefused : Obligations.UpperBankAddrModeRefused := by
  unfold Obligations.UpperBankAddrModeRefused
  intro i am upd s huse hupper h4 h8
  obtain ⟨f, hexec, -⟩ := consumer_exec huse s
  rw [hexec, consume_upper hupper h4 h8]

/-- Settles O23: whichever bank is selected, the BIAS word of the section has BiasClear set. -/
theorem bothBanksClearingDefinesExtraBit : Obligations.BothBanksClearingDefinesExtraBit := by
  unfold Obligations.BothBanksClearingDefinesExtraBit
  intro i am upd s huse ham hlower hupper
  have hsection : ∃ index, SelectsSection s am index ∧ s.cfg16 s.currentThread (47 + index) = 0x0010#16 := by
    by_cases hup : UpperSelected s
    · exact ⟨am + 4, .inr ⟨hup, ham, rfl⟩, hupper⟩
    · exact ⟨am, .inl ⟨hup, by omega, rfl⟩, hlower⟩
  obtain ⟨index, hsel, hbias⟩ := hsection
  obtain ⟨s', hexec, hextra⟩ := consumerExtraBitUpdate i am upd s index huse hsel
  rw [hbias] at hextra
  exact ⟨s', hexec, BitVec.eq_of_toNat_eq hextra⟩

end Sys2Proof.AddrMod

/-! SETC16 (spec/60_exceptions.md R209): the word that it writes, what it leaves alone, and what the thread's next consumer sees of it
(spec/20_memory.md R49). -/

namespace Sys2Proof.Configuration

open Sys2Proof.Machine

/-- The indices of R14. -/
theorem addr32Listed_iff (a : Nat) :
    addr32Listed a = true ↔ (12 ≤ a ∧ a ≤ 19) ∨ (28 ≤ a ∧ a ≤ 35) ∨ (37 ≤ a ∧ a ≤ 40) ∨ (47 ≤ a ∧ a ≤ 54) := by
  simp [addr32Listed, or_assoc]

/-- A word of the issuing thread after a configuration write: the value at its index, the old word at every other. -/
theorem cfg16_writeCfg16 {s : State} (hwf : Cells.wf (s.threadConfig.get s.currentThread).words = true) (a b : Nat) (v : CfgWord) :
    (s.writeCfg16 a v).cfg16 s.currentThread b = if b = a then v else s.cfg16 s.currentThread b := by
  rw [State.cfg16, Steps.writeCfg16_words, if_pos rfl]
  split
  · subst b
    exact Cells.read_write_same v hwf
  · exact Cells.read_write_other v ‹b ≠ a›

/-- At an index of R14 a configuration write changes the thread's words alone. -/
theorem writeCfg16_listed (s : State) {a : Nat} (v : CfgWord) (h : addr32Listed a = true) :
    (s.writeCfg16 a v).threadConfig.get s.currentThread
      = { s.threadConfig.get s.currentThread with words := (s.threadConfig.get s.currentThread).words.write a v } := by
  rw [State.writeCfg16_threadConfig, PerThread.get_set_same, ThreadConfig.writeWord, if_pos h]
  rfl

/-- Settles O40: the write reaches one word of the issuing thread's configuration. -/
theorem setc16WritesItsWord : Obligations.Setc16WritesItsWord := by
  unfold Obligations.Setc16WritesItsWord
  intro addr32 value s hwf
  have hexec : exec (.setc16 addr32 value) s = .next (s.writeCfg16 addr32.toNat value) := rfl
  refine ⟨_, hexec, ?_, fun a ha => ?_, fun u hu => (exec_otherThreads hexec hu).2.1⟩
  · rw [cfg16_writeCfg16 hwf, if_pos rfl]
  · rw [cfg16_writeCfg16 hwf, if_neg ha]

/-- Settles O41: the write reaches the issuing thread's configuration and draw index, and at an index of R14 its words alone. -/
theorem setc16Frame : Obligations.Setc16Frame := by
  unfold Obligations.Setc16Frame
  intro addr32 value s s' h
  have hother := fun u hu => (exec_otherThreads h (u := u) hu).2
  cases h
  refine ⟨rfl, hother, fun hindex => ?_, fun b => rfl⟩
  have hlisted := (addr32Listed_iff addr32.toNat).mpr hindex
  rw [writeCfg16_listed s value hlisted, State.writeCfg16_configIndex, if_pos hlisted]
  exact ⟨rfl, rfl⟩

/-- A configuration write at an index of R14 leaves the selected section as it is. -/
theorem selectsSection_writeCfg16 {s : State} {am index a : Nat} (v : CfgWord) (hlisted : addr32Listed a = true)
    (h : SelectsSection s am index) : SelectsSection (s.writeCfg16 a v) am index := by
  have hupper : UpperSelected (s.writeCfg16 a v) ↔ UpperSelected s := by
    rw [UpperSelected, State.writeCfg16_currentThread, writeCfg16_listed s v hlisted]
    rfl
  rwa [SelectsSection, hupper]

/-- There are 8 sections (R131). -/
theorem selectsSection_lt {s : State} {am index : Nat} (h : SelectsSection s am index) : index < 8 := by
  rcases h with ⟨-, ham, rfl⟩ | ⟨-, ham, rfl⟩ <;> omega

/-- A SETC16 to an index of R14 completes, and the consumer after it completes with the record that the descriptor of the state
between the two gives. -/
theorem setc16_consumer_next {i : Instr} {am index a : Nat} {upd : Bool} {s : State} {value : CfgWord} {P : Rwc → Prop}
    (huse : addrModeUse i = some (am, upd)) (hsel : SelectsSection s am index)
    (hlisted : (12 ≤ a ∧ a ≤ 19) ∨ (28 ≤ a ∧ a ≤ 35) ∨ (37 ≤ a ∧ a ≤ 40) ∨ (47 ≤ a ∧ a ≤ 54))
    (h : P ((s.rwc.get s.currentThread).applyDescriptor upd ((s.writeCfg16 a value).descriptor index))) :
    ∃ s₁ s₂, exec (.setc16 (BitVec.ofNat 8 a) value) s = .next s₁ ∧ exec i s₁ = .next s₂ ∧ P (s₂.rwc.get s.currentThread) := by
  obtain ⟨s₂, hexec, hrwc⟩ := consumer_next huse (selectsSection_writeCfg16 value ((addr32Listed_iff a).mpr hlisted) hsel)
  refine ⟨s.writeCfg16 a value, s₂, ?_, hexec, hrwc ▸ h⟩
  rw [exec, execSetc16, BitVec.toNat_ofNat, Nat.mod_eq_of_lt (by omega)]

/-- Settles O42: the three indices are of R14, so the write moves no selection, and the descriptor that the consumer fetches holds
the new word. -/
theorem setc16IsVisibleToTheNextConsumer : Obligations.Setc16IsVisibleToTheNextConsumer := by
  unfold Obligations.Setc16IsVisibleToTheNextConsumer
  intro i am upd s index value hwf huse hsel r
  have hindex := selectsSection_lt hsel
  have hword (a : Nat) : (s.writeCfg16 a value).cfg16 s.currentThread a = value := by rw [cfg16_writeCfg16 hwf, if_pos rfl]
  refine ⟨?ab, ?dst, ?bias⟩
  case ab =>
    have hab : ((s.writeCfg16 (12 + index) value).descriptor index).ab = value := hword _
    have hsrcA := AddrMod.applyDescriptor_srcAUpdated r upd ((s.writeCfg16 (12 + index) value).descriptor index)
    have hsrcB := AddrMod.applyDescriptor_srcBUpdated r upd ((s.writeCfg16 (12 + index) value).descriptor index)
    rw [hab] at hsrcA hsrcB
    exact setc16_consumer_next (P := fun r' => SrcAUpdated value.toNat r r' ∧ SrcBUpdated value.toNat r r') huse hsel (by omega)
      ⟨hsrcA, hsrcB⟩
  case dst =>
    have hdst : ((s.writeCfg16 (28 + index) value).descriptor index).dst = value := hword _
    have hupdate := AddrMod.applyDescriptor_dstUpdated r upd ((s.writeCfg16 (28 + index) value).descriptor index)
    have hfidelity := AddrMod.applyDescriptor_fidelityUpdated r upd ((s.writeCfg16 (28 + index) value).descriptor index)
    rw [hdst] at hupdate hfidelity
    exact setc16_consumer_next (P := fun r' => DstUpdated value.toNat r r' ∧ FidelityUpdated upd value.toNat r r') huse hsel
      (by omega) ⟨hupdate, hfidelity⟩
  case bias =>
    have hbias : ((s.writeCfg16 (47 + index) value).descriptor index).bias = value := hword _
    have hextra := AddrMod.applyDescriptor_extraBitUpdated r upd ((s.writeCfg16 (47 + index) value).descriptor index)
    rw [hbias] at hextra
    exact setc16_consumer_next (P := ExtraBitUpdated value.toNat r) huse hsel (by omega) hextra

end Sys2Proof.Configuration

/-! The RWC consumers (spec/40_rwc_consumers.md): the rows and cells that each addresses and writes, and what each leaves alone. -/

namespace Sys2Proof.Consumers

open Sys2Proof.Machine

section Rows

/-- Eight rows from an aligned row never pass row 63. -/
theorem srcRowBlock_eight (c : BitVec 6) : srcRowBlock (alignedSrcRow c) 8 = .block (c.toNat / 8 * 8) 8 := by
  rw [srcRowBlock, alignedSrcRow_toNat, if_pos (by simp only [Config.srcRows]; omega)]

/-- Sixteen rows from an aligned row pass row 63 from row 56 on alone (D19). -/
theorem srcRowBlock_sixteen (c : BitVec 6) :
    srcRowBlock (alignedSrcRow c) 16 = if c.toNat / 8 * 8 = 56 then .noDefinedRows else .block (c.toNat / 8 * 8) 16 := by
  have hfits : c.toNat / 8 * 8 + 16 ≤ Config.srcRows ↔ ¬ c.toNat / 8 * 8 = 56 := by
    simp only [Config.srcRows]
    omega
  simp only [srcRowBlock, alignedSrcRow_toNat, hfits, ite_not]

/-- The events of a matrix instruction: its rows, then a non-zero clear_dvalid. -/
theorem matrix_events (srcA srcB dst : Rows) (clearDvalid : BitVec 2) (t : ThreadId) :
    (Effect.matrixRows srcA srcB dst :: clearDvalidEffects clearDvalid).map (Event.mk t)
      = ⟨t, .matrixRows srcA srcB dst⟩ :: (if clearDvalid = 0 then [] else [⟨t, .clearDvalid clearDvalid⟩]) := by
  by_cases h : clearDvalid = 0#2 <;> simp [clearDvalidEffects, h]

/-- The elements of 8 rows of Dst are 128 neighbours. -/
theorem mem_dstBlockCells (row : BitVec 10) (a : Nat) :
    a ∈ dstBlockCells row ↔ row.toNat * 16 ≤ a ∧ a < row.toNat * 16 + 128 := by
  simp [dstBlockCells, Config.cols, List.mem_range'_1]

/-- A matrix instruction whose addr_mode selects a section completes with its events, and every element of its 8 rows of Dst holds
the free value drawn there. -/
theorem matrix_completes {am index : Nat} {s : State} (srcA srcB : Rows) (row : BitVec 10) (clearDvalid : BitVec 2)
    (hsel : SelectsSection s am index) :
    ∃ s', consume am true (matrixEffect srcA srcB row clearDvalid) s = .next s'
      ∧ s'.effects = s.effects ++ ⟨s.currentThread, .matrixRows srcA srcB (.block row.toNat 8)⟩
          :: (if clearDvalid = 0 then [] else [⟨s.currentThread, .clearDvalid clearDvalid⟩])
      ∧ (Cells.wf s.dst = true →
          ∀ a, row.toNat * 16 ≤ a → a < (row.toNat + 8) * 16 → s'.dst.read a = Config.freeDst s.freeIndex a) := by
  have hexec := consume_of_selects (upd := true) (f := matrixEffect srcA srcB row clearDvalid) hsel
  obtain ⟨_, -, hs'⟩ := matrix_next hexec
  refine ⟨_, hexec, ?_, fun hwf a hlo hhi => ?_⟩
  · rw [hs', ← matrix_events]
  · have hmem : a ∈ dstBlockCells row := (mem_dstBlockCells row a).mpr ⟨hlo, by omega⟩
    rw [hs', Cells.read_writeAll_mem _ _ hwf hmem]

end Rows

/-- Settles O24: the rows of R91 as numbers. -/
theorem mvmulRows : Obligations.MvmulRows := by
  unfold Obligations.MvmulRows
  intro clearDvalid instrMod19 addrMode dst s index hsel
  obtain ⟨s', hexec, heffects, hdst⟩ := matrix_completes (srcRowBlock (alignedSrcRow s.currentRwc.srcA) 16)
    (srcRowBlock (alignedSrcRow s.currentRwc.srcB) 8) (s.matrixDstRow dst) clearDvalid hsel
  rw [srcRowBlock_sixteen, srcRowBlock_eight, matrixDstRow_toNat] at heffects
  rw [matrixDstRow_toNat] at hdst
  exact ⟨s', hexec, heffects, hdst⟩

/-- Settles O25: the rows of R93 as numbers, aligned in SrcB unless the row is broadcast. -/
theorem elwaddRows : Obligations.ElwaddRows := by
  unfold Obligations.ElwaddRows
  intro clearDvalid destAccumEn broadcast broadcastCol addrMode dst s index hsel
  obtain ⟨s', hexec, heffects, hdst⟩ := matrix_completes (srcRowBlock (alignedSrcRow s.currentRwc.srcA) 8)
    (if broadcast then broadcastSrcBRows s.currentRwc.srcB else srcRowBlock (alignedSrcRow s.currentRwc.srcB) 8) (s.matrixDstRow dst)
    clearDvalid hsel
  rw [srcRowBlock_eight, srcRowBlock_eight, matrixDstRow_toNat] at heffects
  rw [matrixDstRow_toNat] at hdst
  exact ⟨s', hexec, heffects, hdst⟩

section Lanes

theorem laneCells_length (addr : BitVec 10) (exchange : Bool) : (laneCells addr exchange).length = 32 := by
  simp [laneCells, Config.lanes]

theorem laneCells_getElem? (addr : BitVec 10) (exchange : Bool) {lane : Nat} (h : lane < 32) :
    (laneCells addr exchange)[lane]? = some (laneMap addr exchange lane) := by
  simp [laneCells, Config.lanes, h]

theorem mem_laneCells {addr : BitVec 10} {exchange : Bool} {c : DstCell} :
    c ∈ laneCells addr exchange ↔ ∃ lane, lane < 32 ∧ laneMap addr exchange lane = c := by
  simp [laneCells, Config.lanes]

/-- SFPSTORE's update completes where its addr_mode selects a section: one event, and every cell holds the free value drawn there. -/
theorem laneStore_completes {am index : Nat} {s : State} (cells : List DstCell) (hsel : SelectsSection s am index) :
    ∃ s', consume am false (laneStoreEffect cells) s = .next s' ∧ s'.effects = s.effects ++ [⟨s.currentThread, .laneStores cells⟩]
      ∧ (Cells.wf s.dst = true → ∀ c ∈ cells, s'.dst.read c.number = Config.freeDst s.freeIndex c.number) := by
  have hexec := consume_of_selects (upd := false) (f := laneStoreEffect cells) hsel
  obtain ⟨_, -, hs'⟩ := laneStore_next hexec
  refine ⟨_, hexec, by rw [hs'], fun hwf c hc => ?_⟩
  rw [hs', Cells.read_writeAll_mem _ _ hwf (List.mem_map_of_mem hc)]

end Lanes

/-- Settles O26: the lane map at the address of R95, and the element that stands in each of its cells. -/
theorem sfploadReadsItsLaneCells : Obligations.SfploadReadsItsLaneCells := by
  unfold Obligations.SfploadReadsItsLaneCells
  intro lregInd instrMod0 addrMode imm10 s index hsel
  refine ⟨_, laneCells (s.sfpAddr imm10) s.addrBit1Exchange, _, consume_of_selects hsel, rfl, laneCells_length .., ?_⟩
  intro base addr lane hlane
  have hcell := laneCells_getElem? (s.sfpAddr imm10) s.addrBit1Exchange hlane
  refine ⟨_, hcell, ?_, ?_, ?_⟩
  · rw [laneMap_row_toNat _ _ hlane, sfpAddr_toNat]
  · rw [laneMap_column_toNat, sfpAddr_toNat]
  · rw [List.getElem?_map, hcell]
    rfl

/-- Settles O27: the lane map at the address of R96, and every one of its cells is written. -/
theorem sfpstoreWritesItsLaneCells : Obligations.SfpstoreWritesItsLaneCells := by
  unfold Obligations.SfpstoreWritesItsLaneCells
  intro lregInd instrMod0 addrMode imm10 s index hsel
  obtain ⟨s', hexec, heffects, hdst⟩ := laneStore_completes (laneCells (s.sfpAddr imm10) s.addrBit1Exchange) hsel
  refine ⟨s', _, hexec, heffects, laneCells_length .., ?_⟩
  intro base addr lane hlane
  have hcell := laneCells_getElem? (s.sfpAddr imm10) s.addrBit1Exchange hlane
  refine ⟨_, hcell, ?_, ?_, fun hwf => hdst hwf _ (List.mem_of_getElem? hcell)⟩
  · rw [laneMap_row_toNat _ _ hlane, sfpAddr_toNat]
  · rw [laneMap_column_toNat, sfpAddr_toNat]

section Frames

/-- What a matrix instruction that completes leaves alone. -/
theorem matrix_frame {am : Nat} {srcA srcB : Rows} {row : BitVec 10} {clr : BitVec 2} {s s' : State}
    (h : consume am true (matrixEffect srcA srcB row clr) s = .next s') :
    s' = { s with rwc := s'.rwc, dst := s'.dst, effects := s'.effects, freeIndex := s'.freeIndex }
      ∧ ∀ a, (a < row.toNat * 16 ∨ row.toNat * 16 + 128 ≤ a) → s'.dst.read a = s.dst.read a := by
  obtain ⟨index, -, hs'⟩ := matrix_next h
  refine ⟨?_, fun a ha => ?_⟩
  · generalize dstBlockCells row = cells at hs'
    rw [hs']
  · have hmem : a ∉ dstBlockCells row := by
      rw [mem_dstBlockCells]
      omega
    rw [hs', Cells.read_writeAll_other _ _ hmem]

/-- What SFPLOAD leaves alone when it completes. -/
theorem laneLoad_frame {am : Nat} {cells : List DstCell} {s s' : State} (h : consume am false (laneLoadEffect cells) s = .next s') :
    s' = { s with rwc := s'.rwc, effects := s'.effects } := by
  obtain ⟨index, -, rfl⟩ := laneLoad_next h
  rfl

/-- What SFPSTORE leaves alone when it completes. -/
theorem laneStore_frame {am : Nat} {cells : List DstCell} {s s' : State} (h : consume am false (laneStoreEffect cells) s = .next s') :
    s' = { s with rwc := s'.rwc, dst := s'.dst, effects := s'.effects, freeIndex := s'.freeIndex }
      ∧ ∀ a, a ∉ cells.map DstCell.number → s'.dst.read a = s.dst.read a := by
  obtain ⟨index, -, rfl⟩ := laneStore_next h
  exact ⟨rfl, fun a ha => Cells.read_writeAll_other _ _ ha⟩

/-- The partial form keeps FidelityPhase (R139). -/
theorem applyDescriptor_false_fidelityPhase (r : Rwc) (d : Descriptor) : (r.applyDescriptor false d).fidelityPhase = r.fidelityPhase := by
  rw [AddrMod.applyDescriptor_partial]

/-- A consumer of the partial form keeps its thread's FidelityPhase. -/
theorem partial_keeps_fidelityPhase {i : Instr} {am : Nat} {s s' : State} (huse : addrModeUse i = some (am, false))
    (h : exec i s = .next s') : (s'.rwc.get s.currentThread).fidelityPhase = (s.rwc.get s.currentThread).fidelityPhase := by
  obtain ⟨index, hsel⟩ := AddrMod.consumer_selects huse h
  obtain ⟨s₁, hexec, hrwc⟩ := consumer_next huse hsel
  obtain rfl : s₁ = s' := Host.Outcome.next.inj (hexec.symm.trans h)
  rw [hrwc, applyDescriptor_false_fidelityPhase]

end Frames

/-- Settles O29: MVMUL and ELWADD write Dst at the same row, and the same fields. -/
theorem matrixInstructionsFrame : Obligations.MatrixInstructionsFrame := by
  unfold Obligations.MatrixInstructionsFrame
  intro i dst s s' hi h
  have hframe : s' = { s with rwc := s'.rwc, dst := s'.dst, effects := s'.effects, freeIndex := s'.freeIndex }
      ∧ ∀ a, (a < (s.matrixDstRow dst).toNat * 16 ∨ (s.matrixDstRow dst).toNat * 16 + 128 ≤ a) → s'.dst.read a = s.dst.read a := by
    rcases hi with ⟨clearDvalid, instrMod19, addrMode, rfl⟩ | ⟨clearDvalid, destAccumEn, broadcast, broadcastCol, addrMode, rfl⟩ <;>
      exact matrix_frame h
  obtain ⟨hfields, hdst⟩ := hframe
  exact ⟨hfields, fun u hu => (exec_otherThreads h hu).1, hdst, fun a => by rw [hfields]⟩

/-- Settles O30: the partial form keeps FidelityPhase, SFPLOAD writes no element of Dst and SFPSTORE its lane cells alone. -/
theorem sfpInstructionsFrame : Obligations.SfpInstructionsFrame := by
  unfold Obligations.SfpInstructionsFrame
  constructor
  · intro lregInd instrMod0 addrMode imm10 s s' h
    have hfields := laneLoad_frame h
    exact ⟨hfields, fun u hu => (exec_otherThreads h hu).1, partial_keeps_fidelityPhase rfl h, fun a => by rw [hfields],
      fun a => by rw [hfields]⟩
  · intro lregInd instrMod0 addrMode imm10 s s' h
    obtain ⟨hfields, hdst⟩ := laneStore_frame h
    refine ⟨hfields, fun u hu => (exec_otherThreads h hu).1, partial_keeps_fidelityPhase rfl h, fun a ha => hdst a fun hmem => ?_,
      fun a => by rw [hfields]⟩
    obtain ⟨c, hc, rfl⟩ := List.mem_map.mp hmem
    obtain ⟨lane, hlane, rfl⟩ := mem_laneCells.mp hc
    exact ha lane hlane rfl

/-- A consumer forms its rows or cells from the three main counters of the RWC record, and its address effect does not look at the
record itself. -/
theorem consumer_exec_setRwc {i : Instr} {am : Nat} {upd : Bool} {s : State} {r : Rwc} (huse : addrModeUse i = some (am, upd))
    (hsrcA : r.srcA = s.currentRwc.srcA) (hsrcB : r.srcB = s.currentRwc.srcB) (hdst : r.dst = s.currentRwc.dst) :
    ∃ f : State → State, exec i s = consume am upd f s ∧ exec i (s.setRwc r) = consume am upd f (s.setRwc r)
      ∧ (f (s.setRwc r)).effects = (f s).effects ∧ (f (s.setRwc r)).dst = (f s).dst := by
  have hrow (d : BitVec 14) : (s.setRwc r).matrixDstRow d = s.matrixDstRow d := by
    rw [State.matrixDstRow, State.currentRwc_setRwc, hdst]
    rfl
  have haddr (imm10 : BitVec 10) : (s.setRwc r).sfpAddr imm10 = s.sfpAddr imm10 := by
    rw [State.sfpAddr, State.currentRwc_setRwc, hdst]
    rfl
  cases i <;> simp only [addrModeUse, Option.some.injEq, Prod.mk.injEq, reduceCtorEq] at huse
  case mvmul | elwadd =>
    obtain ⟨rfl, rfl⟩ := huse
    refine ⟨_, rfl, ?_, rfl, rfl⟩
    simp only [exec, execMvmul, execElwadd, State.currentRwc_setRwc, hsrcA, hsrcB, hrow]
  case sfpload | sfpstore =>
    obtain ⟨rfl, rfl⟩ := huse
    refine ⟨_, rfl, ?_, rfl, rfl⟩
    simp only [exec, execSfpload, execSfpstore, haddr, State.setRwc_addrBit1Exchange]

/-- The selection of a section reads ExtraAddrModBit alone of the RWC record. -/
theorem selectsSection_setRwc {s : State} {am index : Nat} {r : Rwc} (hextra : r.extraAddrModBit = s.currentRwc.extraAddrModBit)
    (h : SelectsSection s am index) : SelectsSection (s.setRwc r) am index := by
  have hupper : UpperSelected (s.setRwc r) ↔ UpperSelected s := by
    rw [UpperSelected, State.setRwc_rwc, State.setRwc_currentThread, PerThread.get_set_same, hextra]
    rfl
  rwa [SelectsSection, hupper]

/-- Settles O31: the addresses are formed from the main counters, the section by ExtraAddrModBit, and no other instruction forms an
address from the record. -/
theorem checkpointsFormNoAddress : Obligations.CheckpointsFormNoAddress := by
  unfold Obligations.CheckpointsFormNoAddress
  intro i s s₁ aCr bCr dCr h
  cases huse : addrModeUse i with
  | some use =>
    obtain ⟨am, upd⟩ := use
    obtain ⟨f, hexec, hexec₂, heffects, hdst⟩ :=
      consumer_exec_setRwc (r := { s.rwc.get s.currentThread with srcACr := aCr, srcBCr := bCr, dstCr := dCr }) huse rfl rfl rfl
    obtain ⟨index, hsel, rfl⟩ := consume_next (hexec ▸ h)
    exact ⟨_, hexec₂.trans (consume_of_selects (selectsSection_setRwc rfl hsel)), heffects, hdst⟩
  | none =>
    cases i <;> simp only [addrModeUse, reduceCtorEq] at huse
    case replay | mop | unpacr | pacr => cases h
    all_goals
      cases h
      exact ⟨_, rfl, rfl, rfl⟩

end Sys2Proof.Consumers

/-! The Address Counters (spec/43_adc.md): what each of the six ADC instructions does to the units that CntSetMask selects, what it
leaves alone, and the formulas of the packers. -/

namespace Sys2Proof.Adcs

open Sys2Proof.Machine

section Frames

/-- An update of one thread's units changes the ADC record of that thread alone. -/
theorem onAdcUnits_frame (s : State) (t : ThreadId) (m : BitVec 3) (f : AdcUnit → AdcUnit) :
    s.onAdcUnits t m f = { s with adc := (s.onAdcUnits t m f).adc }
      ∧ (∀ u, u ≠ t → (s.onAdcUnits t m f).adc.get u = s.adc.get u)
      ∧ ∀ a, Memory.read (s.onAdcUnits t m f).l1 a = Memory.read s.l1 a :=
  ⟨rfl, fun _ hu => PerThread.get_set_other _ _ hu, fun _ => rfl⟩

/-- CntSetMask 0 selects no unit (D18). -/
theorem onAdcUnits_zero (s : State) (t : ThreadId) (f : AdcUnit → AdcUnit) : s.onAdcUnits t 0 f = s := by
  have hnone : (s.adc.get t).onUnits 0 f = s.adc.get t := rfl
  rw [State.onAdcUnits, State.updateAdc, hnone, PerThread.set_get]

end Frames

/-- Settles O38: each of the six is one update of one thread's units. -/
theorem adcInstructionsFrame : Obligations.AdcInstructionsFrame := by
  unfold Obligations.AdcInstructionsFrame
  intro i s t htarget
  cases i <;> simp only [adcTarget, Option.some.injEq, reduceCtorEq] at htarget
  all_goals
    subst htarget
    exact ⟨_, rfl, onAdcUnits_frame ..⟩

/-- Settles O39: each of the six reaches the record through the units that CntSetMask selects. -/
theorem emptyCntSetMaskIsNoOp : Obligations.EmptyCntSetMaskIsNoOp := by
  unfold Obligations.EmptyCntSetMaskIsNoOp
  intro s c d v m p q e f g h
  refine ⟨?_, ?_, ?_, ?_, ?_, ?_⟩
  all_goals exact congrArg Host.Outcome.next (onAdcUnits_zero ..)

/-- Settles O56: of the shapes of a next state the ADC update alone touches an ADC record, that of its target. -/
theorem onlyAdcInstructionsWriteAdcs : Obligations.OnlyAdcInstructionsWriteAdcs := by
  unfold Obligations.OnlyAdcInstructionsWriteAdcs
  intro i s s' t h hne
  rcases exec_shape h with
    ⟨-, r, es, rfl⟩ | ⟨am, upd, index, es, -, -, rfl | ⟨cells, -, rfl⟩⟩ | ⟨u, f, -, htarget, rfl⟩ | ⟨a, v, -, -, rfl⟩
  case inr.inr.inl =>
    by_contra hother
    have htu : t ≠ u := fun htu => hother (htu ▸ htarget)
    exact hne (PerThread.get_set_other _ _ htu)
  all_goals exact absurd rfl hne

section Counters

/-- Of the issuing thread's units an update reaches those that CntSetMask selects, and keeps the others. -/
theorem onAdcUnits_selected (s : State) (m : BitVec 3) (f : AdcUnit → AdcUnit) (k : Fin 3) {P : Prop}
    (h : ((s.onAdcUnits s.currentThread m f).adc.get s.currentThread).unit k = f ((s.adc.get s.currentThread).unit k) → P) :
    if MaskBit m k then P
    else ((s.onAdcUnits s.currentThread m f).adc.get s.currentThread).unit k = (s.adc.get s.currentThread).unit k := by
  have hunit := s.onAdcUnits_unit s.currentThread s.currentThread m f k
  split
  · exact h (hunit.trans (if_pos ⟨rfl, ‹_›⟩))
  · exact hunit.trans (if_neg (fun hsel => absurd hsel.2 ‹_›))

/-- A narrow operand keeps its number in a wider counter. -/
theorem toNat_setWidth_counter {n m : Nat} (b : BitVec n) (h : n ≤ m) : (b.setWidth m).toNat = b.toNat := by
  rw [BitVec.toNat_setWidth]
  exact Nat.mod_eq_of_lt (lt_of_lt_of_le b.isLt (Nat.pow_le_pow_right (by decide) h))

/-- A counter of a unit after one counter of one of its channels is set. -/
theorem onChannel_setDim_counter (u : AdcUnit) (c channel : Channel) (d xyzw : Dim) (v : BitVec 16) :
    ((u.onChannel channel (fun ch => ch.setDim xyzw v)).channel c).counter d
      = if c = channel ∧ d = xyzw then v.toNat % 2 ^ dimWidth d else (u.channel c).counter d := by
  rw [AdcUnit.onChannel_channel]
  split_ifs <;> simp_all [AdcChannel.setDim_counter]

/-- Its checkpoint likewise. -/
theorem onChannel_setDim_checkpoint (u : AdcUnit) (c channel : Channel) (d xyzw : Dim) (v : BitVec 16) :
    ((u.onChannel channel (fun ch => ch.setDim xyzw v)).channel c).checkpoint d
      = if c = channel ∧ d = xyzw then v.toNat % 2 ^ dimWidth d else (u.channel c).checkpoint d := by
  rw [AdcUnit.onChannel_channel]
  split_ifs <;> simp_all [AdcChannel.setDim_checkpoint]

end Counters

/-- Settles O32: ThreadOverride, CntSetMask, channel and dimension each select, and a counter is set where all four do. -/
theorem setadcSetsOneCounter : Obligations.SetadcSetsOneCounter := by
  unfold Obligations.SetadcSetsOneCounter
  intro cntSetMask channel xyzw newValue s
  refine ⟨_, rfl, ?_⟩
  intro threadOverride value t k c d
  have hoverride : (newValue.extractLsb' 16 2).toNat = threadOverride := by
    rw [BitVec.extractLsb'_toNat, Nat.shiftRight_eq_div_pow]
    have := newValue.isLt
    omega
  have hvalue : (newValue.extractLsb' 0 16).toNat = value := BitVec.extractLsb'_toNat ..
  have hthread := overrideThread_iff (newValue.extractLsb' 16 2) s.currentThread t
  rw [hoverride] at hthread
  simp only [← hthread, CounterSet, CounterKept, State.onAdcUnits_unit]
  by_cases hunit : t = overrideThread (newValue.extractLsb' 16 2) s.currentThread ∧ MaskBit cntSetMask k
  · rw [if_pos hunit, onChannel_setDim_counter, onChannel_setDim_checkpoint, hvalue]
    obtain ⟨ht, hmask⟩ := hunit
    by_cases hcounter : c = channel ∧ d = xyzw
    · rw [if_pos ⟨ht, hmask, hcounter⟩, if_pos hcounter, if_pos hcounter]
      exact ⟨rfl, rfl⟩
    · rw [if_neg (fun h => hcounter h.2.2), if_neg hcounter, if_neg hcounter]
      exact ⟨rfl, rfl⟩
  · rw [if_neg (fun h => hunit ⟨h.1, h.2.1⟩), if_neg hunit]
    exact ⟨rfl, rfl⟩

section Units

variable {u u' : AdcUnit}

/-- The mask bits of SETADCXY set X and Y of Channel[0] and of Channel[1], in this order. -/
theorem setXY_counters {y1 x1 y0 x0 : BitVec 3} {m : BitVec 4} (h : u' = u.setXY y1 x1 y0 x0 m) :
    (if MaskBit m 0 then CounterSet u' .ch0 .x x0.toNat else CounterKept u u' .ch0 .x)
      ∧ (if MaskBit m 1 then CounterSet u' .ch0 .y y0.toNat else CounterKept u u' .ch0 .y)
      ∧ (if MaskBit m 2 then CounterSet u' .ch1 .x x1.toNat else CounterKept u u' .ch1 .x)
      ∧ (if MaskBit m 3 then CounterSet u' .ch1 .y y1.toNat else CounterKept u u' .ch1 .y)
      ∧ ∀ c, CounterKept u u' c .z ∧ CounterKept u u' c .w := by
  have hx (b : BitVec 3) : (b.setWidth 18).toNat = b.toNat := toNat_setWidth_counter b (by decide)
  have hy (b : BitVec 3) : (b.setWidth 13).toNat = b.toNat := toNat_setWidth_counter b (by decide)
  subst h
  simp only [AdcUnit.setXY, CounterSet, CounterKept, AdcUnit.channel, AdcChannel.counter, AdcChannel.checkpoint, getLsbD_eq_maskBit,
    decide_eq_true_eq]
  refine ⟨?_, ?_, ?_, ?_, fun c => ?kept⟩
  case kept => cases c <;> split_ifs <;> exact ⟨⟨rfl, rfl⟩, rfl, rfl⟩
  all_goals split_ifs <;> simp [AdcChannel.setX, AdcChannel.setY, hx, hy]

/-- The mask bits of SETADCZW set Z and W of Channel[0] and of Channel[1], in this order. -/
theorem setZW_counters {w1 z1 w0 z0 : BitVec 3} {m : BitVec 4} (h : u' = u.setZW w1 z1 w0 z0 m) :
    (if MaskBit m 0 then CounterSet u' .ch0 .z z0.toNat else CounterKept u u' .ch0 .z)
      ∧ (if MaskBit m 1 then CounterSet u' .ch0 .w w0.toNat else CounterKept u u' .ch0 .w)
      ∧ (if MaskBit m 2 then CounterSet u' .ch1 .z z1.toNat else CounterKept u u' .ch1 .z)
      ∧ (if MaskBit m 3 then CounterSet u' .ch1 .w w1.toNat else CounterKept u u' .ch1 .w)
      ∧ ∀ c, CounterKept u u' c .x ∧ CounterKept u u' c .y := by
  have hzw (b : BitVec 3) : (b.setWidth 8).toNat = b.toNat := toNat_setWidth_counter b (by decide)
  subst h
  simp only [AdcUnit.setZW, CounterSet, CounterKept, AdcUnit.channel, AdcChannel.counter, AdcChannel.checkpoint, getLsbD_eq_maskBit,
    decide_eq_true_eq]
  refine ⟨?_, ?_, ?_, ?_, fun c => ?kept⟩
  case kept => cases c <;> split_ifs <;> exact ⟨⟨rfl, rfl⟩, rfl, rfl⟩
  all_goals split_ifs <;> simp [AdcChannel.setZ, AdcChannel.setW, hzw]

/-- SETADCXX sets both X counters. -/
theorem setX_counters {x1 x0 : BitVec 10}
    (h : u' = { channel0 := u.channel0.setX (x0.setWidth 18), channel1 := u.channel1.setX (x1.setWidth 18) }) :
    CounterSet u' .ch0 .x x0.toNat ∧ CounterSet u' .ch1 .x x1.toNat
      ∧ ∀ c, CounterKept u u' c .y ∧ CounterKept u u' c .z ∧ CounterKept u u' c .w := by
  have hx (b : BitVec 10) : (b.setWidth 18).toNat = b.toNat := toNat_setWidth_counter b (by decide)
  subst h
  refine ⟨⟨hx x0, hx x0⟩, ⟨hx x1, hx x1⟩, fun c => ?_⟩
  cases c <;> exact ⟨⟨rfl, rfl⟩, ⟨rfl, rfl⟩, rfl, rfl⟩

/-- A sum in a counter of `m` bits wraps at the counter's width. -/
theorem toNat_add_counter {n m : Nat} (a : BitVec m) (b : BitVec n) (h : n ≤ m) :
    (a + b.setWidth m).toNat = (a.toNat + b.toNat) % 2 ^ m := by
  rw [BitVec.toNat_add, toNat_setWidth_counter b h]

/-- INCADCXY adds to X and Y of both channels. -/
theorem addXY_counters {y1 x1 y0 x0 : BitVec 3}
    (h : u' = { channel0 := u.channel0.addXY x0 y0, channel1 := u.channel1.addXY x1 y1 }) :
    CounterAdded u u' .ch0 .x x0.toNat ∧ CounterAdded u u' .ch0 .y y0.toNat
      ∧ CounterAdded u u' .ch1 .x x1.toNat ∧ CounterAdded u u' .ch1 .y y1.toNat
      ∧ ∀ c, CounterKept u u' c .z ∧ CounterKept u u' c .w := by
  subst h
  have hx (a : BitVec 18) (b : BitVec 3) := toNat_add_counter a b (by decide)
  have hy (a : BitVec 13) (b : BitVec 3) := toNat_add_counter a b (by decide)
  refine ⟨⟨hx .., rfl⟩, ⟨hy .., rfl⟩, ⟨hx .., rfl⟩, ⟨hy .., rfl⟩, fun c => ?_⟩
  cases c <;> exact ⟨⟨rfl, rfl⟩, rfl, rfl⟩

/-- INCADCZW adds to Z and W of both channels. -/
theorem addZW_counters {w1 z1 w0 z0 : BitVec 3}
    (h : u' = { channel0 := u.channel0.addZW z0 w0, channel1 := u.channel1.addZW z1 w1 }) :
    CounterAdded u u' .ch0 .z z0.toNat ∧ CounterAdded u u' .ch0 .w w0.toNat
      ∧ CounterAdded u u' .ch1 .z z1.toNat ∧ CounterAdded u u' .ch1 .w w1.toNat
      ∧ ∀ c, CounterKept u u' c .x ∧ CounterKept u u' c .y := by
  subst h
  have hzw (a : BitVec 8) (b : BitVec 3) := toNat_add_counter a b (by decide)
  refine ⟨⟨hzw .., rfl⟩, ⟨hzw .., rfl⟩, ⟨hzw .., rfl⟩, ⟨hzw .., rfl⟩, fun c => ?_⟩
  cases c <;> exact ⟨⟨rfl, rfl⟩, rfl, rfl⟩

end Units

/-- Settles O33: every selected unit is the old one with the counters of BitMask set. -/
theorem setadcxySetsMaskedCounters : Obligations.SetadcxySetsMaskedCounters := by
  unfold Obligations.SetadcxySetsMaskedCounters
  intro cntSetMask y1Val x1Val y0Val x0Val bitMask s
  exact ⟨_, rfl, fun k => onAdcUnits_selected s cntSetMask _ k setXY_counters⟩

/-- Settles O34: every selected unit is the old one with the counters of BitMask set. -/
theorem setadczwSetsMaskedCounters : Obligations.SetadczwSetsMaskedCounters := by
  unfold Obligations.SetadczwSetsMaskedCounters
  intro cntSetMask w1Val z1Val w0Val z0Val bitMask s
  exact ⟨_, rfl, fun k => onAdcUnits_selected s cntSetMask _ k setZW_counters⟩

/-- Settles O35: every selected unit is the old one with both X counters set. -/
theorem setadcxxSetsBothX : Obligations.SetadcxxSetsBothX := by
  unfold Obligations.SetadcxxSetsBothX
  intro cntSetMask x1Val x0Val s
  exact ⟨_, rfl, fun k => onAdcUnits_selected s cntSetMask _ k setX_counters⟩

/-- Settles O36: every selected unit is the old one with X and Y of both channels increased. -/
theorem incadcxyAddsToXAndY : Obligations.IncadcxyAddsToXAndY := by
  unfold Obligations.IncadcxyAddsToXAndY
  intro cntSetMask y1Inc x1Inc y0Inc x0Inc s
  exact ⟨_, rfl, fun k => onAdcUnits_selected s cntSetMask _ k addXY_counters⟩

/-- Settles O37: every selected unit is the old one with Z and W of both channels increased. -/
theorem incadczwAddsToZAndW : Obligations.IncadczwAddsToZAndW := by
  unfold Obligations.IncadczwAddsToZAndW
  intro cntSetMask w1Inc z1Inc w0Inc z0Inc s
  exact ⟨_, rfl, fun k => onAdcUnits_selected s cntSetMask _ k addZW_counters⟩

/-- Settles O43: in the ordered case the count is a difference of numbers plus one. -/
theorem datumCountOfOrderedCounters : Obligations.DatumCountOfOrderedCounters := by
  unfold Obligations.DatumCountOfOrderedCounters
  intro u hle
  rw [AdcUnit.datumCount, if_pos hle]
  omega

/-- Settles O44: modulo 2^32 an addend may be reduced before it is added, and a stride before it is multiplied. -/
theorem packerDstAddressIsTheWeightedSum : Obligations.PackerDstAddressIsTheWeightedSum := by
  unfold Obligations.PackerDstAddressIsTheWeightedSum
  intro s t c
  have hmod (a : Nat) : a ≡ a % 2 ^ 32 [MOD 2 ^ 32] := (Nat.mod_modEq a _).symm
  rw [State.packerDstAddr, BitVec.toNat_ofNat]
  exact ((((hmod _).add_right _).add ((hmod _).mul_left _)).add ((hmod _).mul_left _)).add ((hmod _).mul_left _)

section Masks

/-- The mask of the low `n` bits, bit by bit. -/
theorem getLsbD_lowMask {n : Nat} (hn : n ≤ 32) (k : Nat) : (BitVec.ofNat 32 (2 ^ n - 1)).getLsbD k = decide (k < n) := by
  rw [BitVec.getLsbD_ofNat, Nat.testBit_two_pow_sub_one, ← Bool.decide_and]
  exact decide_eq_decide.mpr (by omega)

/-- Under the mask of the low `n` bits the remainder is left. -/
theorem and_lowMask_toNat {n : Nat} (hn : n ≤ 32) (b : BitVec 32) : (b &&& BitVec.ofNat 32 (2 ^ n - 1)).toNat = b.toNat % 2 ^ n := by
  have hlt : 2 ^ n - 1 < 2 ^ 32 := by
    have := Nat.pow_le_pow_right (n := 2) (by decide) hn
    omega
  rw [BitVec.toNat_and, BitVec.toNat_ofNat, Nat.mod_eq_of_lt hlt, Nat.and_two_pow_sub_one_eq_mod]

/-- Without the low `n` bits the multiple of `2 ^ n` is left. -/
theorem and_not_lowMask_toNat {n : Nat} (hn : n ≤ 32) (b : BitVec 32) :
    (b &&& ~~~ BitVec.ofNat 32 (2 ^ n - 1)).toNat = b.toNat / 2 ^ n * 2 ^ n := by
  have hshift : b &&& ~~~ BitVec.ofNat 32 (2 ^ n - 1) = (b >>> n) <<< n := by
    apply BitVec.eq_of_getLsbD_eq
    intro k hk
    rw [BitVec.getLsbD_and, BitVec.getLsbD_not, getLsbD_lowMask hn, BitVec.getLsbD_shiftLeft, BitVec.getLsbD_ushiftRight]
    rcases Nat.lt_or_ge k n with hkn | hkn
    · simp [hkn]
    · simp [hk, hkn, Bool.and_comm]
  have hle : b.toNat / 2 ^ n * 2 ^ n < 2 ^ 32 := lt_of_le_of_lt (Nat.div_mul_le_self _ _) b.isLt
  rw [hshift, BitVec.toNat_shiftLeft, BitVec.toNat_ushiftRight, Nat.shiftLeft_eq, Nat.shiftRight_eq_div_pow, Nat.mod_eq_of_lt hle]

end Masks

/-- Settles O45: the low `n` bits of the sum are those of X, the others those of the datum index. -/
theorem packerDatumIndexUnderALowMask : Obligations.PackerDatumIndexUnderALowMask := by
  unfold Obligations.PackerDatumIndexUnderALowMask
  intro s t i n hn hmask hbytes x datum
  have hdatum : datum < 2 ^ 32 := lt_of_le_of_lt (Nat.div_le_self _ _) (s.packerDstAddr t).isLt
  have hx : ((s.adc.get t).packers.channel0.x.setWidth 32).toNat = x := toNat_setWidth_counter _ (by decide)
  simp only [State.packerDatumIndex, hmask, BitVec.toNat_add, and_not_lowMask_toNat hn, and_lowMask_toNat hn, hx, BitVec.toNat_ofNat]
  rw [Nat.mod_eq_of_lt hdatum]
  omega

end Sys2Proof.Adcs

/-! What every instruction may and may not do (spec/10_state.md R10, R13, R31, R41): who writes FidelityPhase and ExtraAddrModBit, what
no instruction writes, how the effects grow, and what an RWC result depends on. -/

namespace Sys2Proof.Writers

open Sys2Proof.Machine

/-- Settles O58: of the shapes of a next state two record effects, each at the end of the list and as the issuing thread's. -/
theorem effectsAreOnlyAppended : Obligations.EffectsAreOnlyAppended := by
  unfold Obligations.EffectsAreOnlyAppended
  intro i s s' h
  have hrecorded (es : List Effect) : ∃ new, s.effects ++ es.map (Event.mk s.currentThread) = s.effects ++ new
      ∧ ∀ e ∈ new, e.thread = s.currentThread := by
    refine ⟨_, rfl, fun e he => ?_⟩
    obtain ⟨effect, -, rfl⟩ := List.mem_map.mp he
    rfl
  rcases exec_shape h with
    ⟨-, r, es, rfl⟩ | ⟨am, upd, index, es, -, -, rfl | ⟨cells, -, rfl⟩⟩ | ⟨t, f, -, -, rfl⟩ | ⟨a, v, -, -, rfl⟩
  · exact hrecorded es
  · exact hrecorded es
  · exact hrecorded es
  · exact ⟨[], by simp⟩
  · exact ⟨[], by simp⟩

/-- Settles O59: none of the shapes of a next state writes one of these fields. -/
theorem memoryAndSourceFilesAreUntouched : Obligations.MemoryAndSourceFilesAreUntouched := by
  unfold Obligations.MemoryAndSourceFilesAreUntouched
  intro i s s' h
  rcases exec_shape h with
    ⟨-, r, es, rfl⟩ | ⟨am, upd, index, es, -, -, rfl | ⟨cells, -, rfl⟩⟩ | ⟨t, f, -, -, rfl⟩ | ⟨a, v, -, -, rfl⟩
  all_goals exact ⟨fun _ => rfl, fun _ => rfl, fun _ => rfl, rfl, rfl⟩

/-- A SETRWC that changes FidelityPhase leaves it 0 (R114). -/
theorem setrwc_fidelityPhase {c : BitVec 2} {cr d b a : BitVec 4} {m : BitVec 6} {s s' : State}
    (h : exec (.setrwc c cr d b a m) s = .next s')
    (hne : (s'.rwc.get s.currentThread).fidelityPhase ≠ (s.rwc.get s.currentThread).fidelityPhase) :
    (s'.rwc.get s.currentThread).fidelityPhase = 0 := by
  obtain ⟨s₁, hexec, hphase⟩ := RwcWriters.setrwcFidelityStep c cr d b a m s
  obtain rfl : s₁ = s' := Host.Outcome.next.inj (hexec.symm.trans h)
  split at hphase
  · exact BitVec.eq_of_toNat_eq hphase
  · exact absurd (BitVec.eq_of_toNat_eq hphase) hne

/-- Who changes the two fields of the issuing thread's record: ExtraAddrModBit a consumer, FidelityPhase a consumer of the full form
or a SETRWC. -/
theorem writers_of_issuing_thread {i : Instr} {s s' : State} (h : exec i s = .next s') :
    ((s'.rwc.get s.currentThread).fidelityPhase ≠ (s.rwc.get s.currentThread).fidelityPhase →
      (∃ am, addrModeUse i = some (am, true))
        ∨ (∃ c cr d b a m, i = .setrwc c cr d b a m ∧ (s'.rwc.get s.currentThread).fidelityPhase = 0))
    ∧ ((s'.rwc.get s.currentThread).extraAddrModBit ≠ (s.rwc.get s.currentThread).extraAddrModBit →
      ∃ am upd, addrModeUse i = some (am, upd)) := by
  cases huse : addrModeUse i with
  | some use =>
    obtain ⟨am, upd⟩ := use
    refine ⟨fun hne => ?_, fun _ => ⟨am, upd, rfl⟩⟩
    cases upd with
    | true => exact .inl ⟨am, rfl⟩
    | false => exact absurd (Consumers.partial_keeps_fidelityPhase huse h) hne
  | none =>
    obtain ⟨hsetrwc, hincrwc⟩ := RwcWriters.rwcWritersFrame
    cases i <;> simp only [addrModeUse, reduceCtorEq] at huse
    case setrwc =>
      obtain ⟨-, -, hextra, -⟩ := hsetrwc _ _ _ _ _ _ s s' h
      exact ⟨fun hne => .inr ⟨_, _, _, _, _, _, rfl, setrwc_fidelityPhase h hne⟩, fun hne => absurd hextra hne⟩
    case incrwc =>
      obtain ⟨-, -, hextra, hphase, -⟩ := hincrwc _ _ _ _ s s' h
      exact ⟨fun hne => absurd hphase hne, fun hne => absurd hextra hne⟩
    case replay | mop | unpacr | pacr => cases h
    all_goals
      cases h
      exact ⟨fun hne => absurd rfl hne, fun hne => absurd rfl hne⟩

/-- Settles O57: no other thread's record changes, and in the issuing thread's the two fields have these writers. -/
theorem writersOfFidelityAndExtraBit : Obligations.WritersOfFidelityAndExtraBit := by
  unfold Obligations.WritersOfFidelityAndExtraBit
  intro i s s' t h
  by_cases ht : t = s.currentThread
  · subst ht
    obtain ⟨hphase, hextra⟩ := writers_of_issuing_thread h
    exact ⟨fun hne => ⟨rfl, hphase hne⟩, fun hne => ⟨rfl, hextra hne⟩⟩
  · have hrwc := (exec_otherThreads h ht).1
    exact ⟨fun hne => absurd (by rw [hrwc]) hne, fun hne => absurd (by rw [hrwc]) hne⟩

/-- Settles O54: a consumer reads the record, the words and ADDR_MOD_SET_Base, a SETRWC and an INCRWC the record, and no other
instruction writes it. -/
theorem rwcResultDependsOnItsOwnThread : Obligations.RwcResultDependsOnItsOwnThread := by
  unfold Obligations.RwcResultDependsOnItsOwnThread
  intro i s₁ s₂ s₁' hthread hrwc hwords hbase h
  have hcurrent : s₁.currentRwc = s₂.currentRwc := by rw [State.currentRwc, hrwc, hthread, State.currentRwc]
  cases huse : addrModeUse i with
  | some use =>
    obtain ⟨am, upd⟩ := use
    obtain ⟨index, hsel⟩ := AddrMod.consumer_selects huse h
    have hupper : UpperSelected s₂ ↔ UpperSelected s₁ := by rw [UpperSelected, UpperSelected, ← hthread, hrwc, hbase]
    have hsel₂ : SelectsSection s₂ am index := by rwa [SelectsSection, hupper]
    have hdescriptor : s₁.descriptor index = s₂.descriptor index := by
      simp only [State.descriptor, State.cfg16, ← hthread, hwords]
    obtain ⟨s, hexec, hs⟩ := consumer_next huse hsel
    obtain rfl : s = s₁' := Host.Outcome.next.inj (hexec.symm.trans h)
    obtain ⟨s₂', hexec₂, hs₂⟩ := consumer_next huse hsel₂
    rw [← hthread] at hs₂
    exact ⟨s₂', hexec₂, by rw [hs, hs₂, hdescriptor, hrwc]⟩
  | none =>
    cases i <;> simp only [addrModeUse, reduceCtorEq] at huse
    case setrwc | incrwc =>
      cases h
      exact ⟨_, rfl, by simp [hcurrent, hthread]⟩
    case replay | mop | unpacr | pacr => cases h
    all_goals
      cases h
      exact ⟨_, rfl, hrwc.symm⟩

end Sys2Proof.Writers

/-! Interleaving (spec/20_memory.md R48): instructions of two threads commute on the RWC state, and so any two orders of the same
turns leave the same RWC records. -/

namespace Sys2Proof.Interleaving

open Sys2Proof.Machine

section Agreement

variable {t : ThreadId} {s₁ s₂ s₃ : State}

theorem agreeOn_symm (h : AgreeOn t s₁ s₂) : AgreeOn t s₂ s₁ :=
  ⟨h.1.symm, h.2.1.symm, h.2.2.symm⟩

theorem agreeOn_trans (h : AgreeOn t s₁ s₂) (h' : AgreeOn t s₂ s₃) : AgreeOn t s₁ s₃ :=
  ⟨h.1.trans h'.1, h.2.1.trans h'.2.1, h.2.2.trans h'.2.2⟩

/-- An instruction keeps the agreement of every thread that does not issue it. -/
theorem agreeOn_of_exec {i : Instr} {s s' : State} {u : ThreadId} (h : exec i (s.asThread u) = .next s') (ht : t ≠ u) :
    AgreeOn t s' s := exec_otherThreads h ht

end Agreement

/-- Settles O55: each of the two threads starts in either order from what it alone computes with, and no third thread is touched. -/
theorem threadsCommuteOnRwcState : Obligations.ThreadsCommuteOnRwcState := by
  unfold Obligations.ThreadsCommuteOnRwcState
  intro i j t u s s₁ s₂ htu hi hj
  have hstartU := agreeOn_of_exec hi htu.symm
  obtain ⟨s₁', hj', hu⟩ := exec_agree (s₁ := s₁.asThread u) (s₂ := s.asThread u) rfl hstartU hj
  have hstartT := agreeOn_symm (agreeOn_of_exec hj' htu)
  obtain ⟨s₂', hi', ht⟩ := exec_agree (s₁ := s.asThread t) (s₂ := s₁'.asThread t) rfl hstartT hi
  refine ⟨s₁', s₂', hj', hi', fun v => ?_⟩
  show AgreeOn v s₂' s₂
  by_cases hvt : v = t
  · subst hvt
    exact agreeOn_trans (agreeOn_symm ht) (agreeOn_symm (agreeOn_of_exec hj htu))
  by_cases hvu : v = u
  · subst hvu
    exact agreeOn_trans (agreeOn_of_exec hi' hvt) (agreeOn_symm hu)
  · have hleft : AgreeOn v s₂' s := agreeOn_trans (agreeOn_of_exec hi' hvt) (agreeOn_of_exec hj' hvu)
    have hright : AgreeOn v s₂ s := agreeOn_trans (agreeOn_of_exec hj hvu) (agreeOn_of_exec hi hvt)
    exact agreeOn_trans hleft (agreeOn_symm hright)

/-- Two states look the same to thread `t`: they agree on what it computes its records from and on its sequence. -/
def SameView (t : ThreadId) (s₁ s₂ : State) : Prop := AgreeOn t s₁ s₂ ∧ s₁.sequences.get t = s₂.sequences.get t

section Views

variable {t : ThreadId} {s₁ s₂ s₃ : State}

theorem sameView_symm (h : SameView t s₁ s₂) : SameView t s₂ s₁ := ⟨agreeOn_symm h.1, h.2.symm⟩

theorem sameView_trans (h : SameView t s₁ s₂) (h' : SameView t s₂ s₃) : SameView t s₁ s₃ :=
  ⟨agreeOn_trans h.1 h'.1, h.2.trans h'.2⟩

end Views

/-- A turn of `t` from `s` to `s'`: `t` is scheduled, the step completes, and the rest of the schedule remains. -/
def Turn (t : ThreadId) (s s' : State) : Prop := s.schedule = t :: s'.schedule ∧ step s = .next s'

/-- A completed step of the scheduled thread is its turn. -/
theorem turn_of_step {t : ThreadId} {rest : List ThreadId} {s s' : State} (hs : s.schedule = t :: rest) (h : step s = .next s') :
    Turn t s s' ∧ s'.schedule = rest := by
  obtain ⟨u, hu, -⟩ := Steps.stepAdvancesTheIssuingThreadOnly s s' h
  obtain ⟨rfl, rfl⟩ := List.cons.inj (hs.symm.trans hu)
  exact ⟨⟨hs, h⟩, rfl⟩

/-- A turn changes no other thread's view. -/
theorem turn_other {t u : ThreadId} {s s' : State} (h : Turn t s s') (hu : u ≠ t) : SameView u s' s := by
  obtain ⟨hs, hstep⟩ := h
  obtain ⟨t', rest, e, i, hs', -, -, hexec⟩ := step_next hstep
  obtain ⟨rfl, -⟩ := List.cons.inj (hs.symm.trans hs')
  obtain ⟨-, -, hsequences, -⟩ := exec_keeps hexec
  have hagree := exec_otherThreads hexec hu
  refine ⟨hagree, ?_⟩
  rw [hsequences, State.issue_sequences, PerThread.get_set_other _ _ hu]

/-- A turn completes from every state that looks the same to its thread, and leaves it the same view. -/
theorem turn_same {t : ThreadId} {rest : List ThreadId} {s₁ s₂ s₁' : State} (h : Turn t s₁ s₁') (hview : SameView t s₁ s₂)
    (hs₂ : s₂.schedule = t :: rest) : ∃ s₂', Turn t s₂ s₂' ∧ s₂'.schedule = rest ∧ SameView t s₁' s₂' := by
  obtain ⟨hs, hstep⟩ := h
  obtain ⟨t', rest', e, i, hs', he, hi, hexec⟩ := step_next hstep
  obtain ⟨rfl, -⟩ := List.cons.inj (hs.symm.trans hs')
  obtain ⟨hagree, hsequence⟩ := hview
  obtain ⟨s₂', hexec₂, hagree'⟩ := exec_agree (s₁ := s₁.issue t rest') (s₂ := s₂.issue t rest) rfl hagree hexec
  rw [hsequence] at he
  obtain ⟨hturn, hrest⟩ := turn_of_step hs₂ ((Steps.step_of_entry hs₂ he hi).trans hexec₂)
  refine ⟨s₂', hturn, hrest, hagree', ?_⟩
  obtain ⟨-, -, hkept, -⟩ := exec_keeps hexec
  obtain ⟨-, -, hkept₂, -⟩ := exec_keeps hexec₂
  simp only [hkept, hkept₂, State.issue_sequences, PerThread.get_set_same, hsequence]

/-- A turn completes from every state that looks the same to all threads, and leaves all of them the same view. -/
theorem turn_same_all {t : ThreadId} {rest : List ThreadId} {s₁ s₂ s₁' : State} (h : Turn t s₁ s₁')
    (hview : ∀ v, SameView v s₁ s₂) (hs₂ : s₂.schedule = t :: rest) :
    ∃ s₂', Turn t s₂ s₂' ∧ s₂'.schedule = rest ∧ ∀ v, SameView v s₁' s₂' := by
  obtain ⟨s₂', h₂, hrest, ht⟩ := turn_same h (hview t) hs₂
  refine ⟨s₂', h₂, hrest, fun v => ?_⟩
  by_cases hv : v = t
  · exact hv ▸ ht
  · exact sameView_trans (turn_other h hv) (sameView_trans (hview v) (sameView_symm (turn_other h₂ hv)))

/-- The turns of two threads may be exchanged. -/
theorem turns_swap {t u : ThreadId} {rest : List ThreadId} {s₁ s₂ a b : State} (htu : t ≠ u) (ht : Turn t s₁ a) (hu : Turn u a b)
    (hview : ∀ v, SameView v s₁ s₂) (hs₂ : s₂.schedule = u :: t :: rest) :
    ∃ a' b', Turn u s₂ a' ∧ Turn t a' b' ∧ b'.schedule = rest ∧ ∀ v, SameView v b b' := by
  obtain ⟨a', hu', hrest, hviewU⟩ := turn_same hu (sameView_trans (turn_other ht htu.symm) (hview u)) hs₂
  obtain ⟨b', ht', hrest', hviewT⟩ := turn_same ht (sameView_trans (hview t) (sameView_symm (turn_other hu' htu))) hrest
  refine ⟨a', b', hu', ht', hrest', fun v => ?_⟩
  by_cases hvt : v = t
  · subst hvt
    exact sameView_trans (turn_other hu htu) hviewT
  by_cases hvu : v = u
  · subst hvu
    exact sameView_trans hviewU (sameView_symm (turn_other ht' hvt))
  · have hleft : SameView v b s₁ := sameView_trans (turn_other hu hvu) (turn_other ht hvt)
    have hright : SameView v b' s₂ := sameView_trans (turn_other ht' hvt) (turn_other hu' hvu)
    exact sameView_trans hleft (sameView_trans (hview v) (sameView_symm hright))

/-- A run of `order₁` that completes has a run of `order₂` that completes, from states and to states that look the same to every
thread. -/
def SameRuns (order₁ order₂ : List ThreadId) : Prop :=
  ∀ s₁ s₂ s₁' : State, (∀ v, SameView v s₁ s₂) → s₁.schedule = order₁ → s₂.schedule = order₂ →
    Sys2Proof.core.run order₁.length s₁ = .next s₁' →
      ∃ s₂' : State, Sys2Proof.core.run order₂.length s₂ = .next s₂' ∧ ∀ v, SameView v s₁' s₂'

/-- A run of `k + 1` steps is a step and a run of `k`. -/
theorem run_succ_iff (M : Host.Core) {k : Nat} {s s' : M.State} :
    M.run (k + 1) s = .next s' ↔ ∃ s₁, M.step s = .next s₁ ∧ M.run k s₁ = .next s' := by
  rw [Host.Core.run]
  cases M.step s <;> simp

theorem sameRuns_nil : SameRuns [] [] := by
  intro s₁ s₂ s₁' hview _ _ hrun
  cases hrun
  exact ⟨s₂, rfl, hview⟩

theorem sameRuns_cons {order₁ order₂ : List ThreadId} (t : ThreadId) (h : SameRuns order₁ order₂) :
    SameRuns (t :: order₁) (t :: order₂) := by
  intro s₁ s₂ s₁' hview hs₁ hs₂ hrun
  obtain ⟨a, hstep, hrun⟩ := (run_succ_iff Sys2Proof.core).mp hrun
  obtain ⟨hturn, ha⟩ := turn_of_step hs₁ hstep
  obtain ⟨b, hturn', hb, hview'⟩ := turn_same_all hturn hview hs₂
  obtain ⟨s₂', hrun', hfinal⟩ := h a b s₁' hview' ha hb hrun
  exact ⟨s₂', (run_succ_iff Sys2Proof.core).mpr ⟨b, hturn'.2, hrun'⟩, hfinal⟩

theorem sameRuns_refl (order : List ThreadId) : SameRuns order order := by
  induction order with
  | nil => exact sameRuns_nil
  | cons t order ih => exact sameRuns_cons t ih

theorem sameRuns_swap (t u : ThreadId) (order : List ThreadId) : SameRuns (t :: u :: order) (u :: t :: order) := by
  by_cases htu : t = u
  · subst htu
    exact sameRuns_refl _
  intro s₁ s₂ s₁' hview hs₁ hs₂ hrun
  obtain ⟨a, hstepT, hrun⟩ := (run_succ_iff Sys2Proof.core).mp hrun
  obtain ⟨b, hstepU, hrun⟩ := (run_succ_iff Sys2Proof.core).mp hrun
  obtain ⟨hturnT, ha⟩ := turn_of_step hs₁ hstepT
  obtain ⟨hturnU, hb⟩ := turn_of_step ha hstepU
  obtain ⟨a', b', hturnU', hturnT', hb', hview'⟩ := turns_swap htu hturnT hturnU hview hs₂
  obtain ⟨s₂', hrun', hfinal⟩ := sameRuns_refl order b b' s₁' hview' hb hb' hrun
  exact ⟨s₂', (run_succ_iff Sys2Proof.core).mpr ⟨a', hturnU'.2, (run_succ_iff Sys2Proof.core).mpr ⟨b', hturnT'.2, hrun'⟩⟩, hfinal⟩

/-- Through the first state with the middle order as its schedule. -/
theorem sameRuns_trans {order₁ order₂ order₃ : List ThreadId} (h : SameRuns order₁ order₂) (h' : SameRuns order₂ order₃) :
    SameRuns order₁ order₃ := by
  intro s₁ s₃ s₁' hview hs₁ hs₃ hrun
  obtain ⟨s₂', hrun₂, hview₂⟩ := h s₁ { s₁ with schedule := order₂ } s₁' (fun v => ⟨⟨rfl, rfl, rfl⟩, rfl⟩) hs₁ rfl hrun
  obtain ⟨s₃', hrun₃, hview₃⟩ := h' { s₁ with schedule := order₂ } s₃ s₂' hview rfl hs₃ hrun₂
  exact ⟨s₃', hrun₃, fun v => sameView_trans (hview₂ v) (hview₃ v)⟩

/-- A permutation is built from exchanges of neighbours. -/
theorem sameRuns_of_perm {order₁ order₂ : List ThreadId} (h : order₁.Perm order₂) : SameRuns order₁ order₂ := by
  induction h with
  | nil => exact sameRuns_nil
  | cons t _ ih => exact sameRuns_cons t ih
  | swap t u order => exact sameRuns_swap u t order
  | trans _ _ ih ih' => exact sameRuns_trans ih ih'

/-- Settles O60: the two runs start from states that differ in the schedule alone, which no thread's view holds. -/
theorem interleavingsLeaveTheSameRwcRecords : Obligations.InterleavingsLeaveTheSameRwcRecords := by
  unfold Obligations.InterleavingsLeaveTheSameRwcRecords
  intro s s₁ order₁ order₂ hperm hrun
  obtain ⟨s₂, hrun₂, hview⟩ := sameRuns_of_perm hperm { s with schedule := order₁ } { s with schedule := order₂ } s₁
    (fun v => ⟨⟨rfl, rfl, rfl⟩, rfl⟩) rfl rfl hrun
  refine ⟨s₂, hrun₂, fun t => ?_⟩
  obtain ⟨⟨hrwc, -, -⟩, -⟩ := hview t
  exact hrwc.symm

end Sys2Proof.Interleaving
